-- ==== Sys2Proof/Word.lean ====
section
/-! DEFINITION. The words of the block and its smallest data types (spec/00_scope.md R6, R9, R11; 10_state.md R21, R39). -/

namespace Sys2Proof

/-- A byte: an OAM byte, a ROM byte, a plane byte (R11). -/
abbrev Byte := BitVec 8

/-- A pixel value, 0 = transparent, 1 to 3 opaque (R6 `PX_BITS`, R21). -/
abbrev Pixel := BitVec 2

/-- A 16-bit bus address (R87, R100, R102); palette addresses have the same width (R85). -/
abbrev BusAddr := BitVec 16

/-- A scanline operand as a command word carries it, 0 to 511 (R86). -/
abbrev Scanline := BitVec 9

/-- An OAM slot index, 0 to 63 (R6 `N_SLOTS`, R21). -/
abbrev Slot := Fin 64

/-- An index into a bank, whose capacity is 64 (R23). -/
abbrev BankIndex := Fin 64

/-- A row of the frame, 0 to 239 (R6 `FRAME_H`). -/
abbrev FrameRow := Fin 240

/-- An element of the frame buffer. The channel widths are not in the source (R7, D21): a colour is a bare code,
equal only to itself, and no operation looks inside it (log 14). -/
structure Colour where
  code : Nat
deriving DecidableEq, Repr, Inhabited

/-- One row of a pixel grid, column 0 first (R21). -/
abbrev Row := List Pixel

/-- A pixel grid, row 0 first; its number of rows is the height it was decoded with (R21, R22, D27). -/
abbrev Grid := List Row

/-- The mirror mode of a cartridge (R39). -/
inductive MirrorMode where
  | horizontal
  | vertical
  | singleScreenA
  | singleScreenB
  | fourScreen
deriving DecidableEq, Repr, Inhabited

end Sys2Proof
end

