-- ==== Sys2Proof/Config.lean ====
section
/-! DEFINITION. The fixed sizes of the block (R6), the ROM image a cartridge gives (R7, R39) and the values the spec
leaves open (R7; 92_eei_decisions.md, open parameters). -/

namespace Sys2Proof

/-- Sprites kept per scanline under the normal limit (R6 `LIMIT`). -/
abbrev Config.limit : Nat := 8

/-- Sprite width in pixels (R6 `SPR_W`). -/
abbrev Config.spriteWidth : Nat := 8

/-- Bytes of OAM (R6 `OAM_BYTES`). -/
abbrev Config.oamBytes : Nat := 256

/-- Bytes per 8x8 tile (R6 `TILE_BYTES`). -/
abbrev Config.tileBytes : Nat := 16

/-- Distance between the two plane bytes of one row (R6 `PLANE_GAP`). -/
abbrev Config.planeGap : Nat := 8

/-- Size of one pattern table (R6 `PT_BYTES`). -/
abbrev Config.patternTableBytes : Nat := 0x1000

/-- Length of the CHR image, which is also the size of the pattern window (R7, R113, D9). -/
abbrev Config.chrBytes : Nat := 8192

/-- The length of a PRG image is a positive multiple of this (R7, R39). -/
abbrev Config.prgUnit : Nat := 16384

/-- Columns of the frame (R6 `FRAME_W`). -/
abbrev Config.frameWidth : Nat := 256

/-- Display rows of the frame (R6 `FRAME_H`). -/
abbrev Config.frameHeight : Nat := 240

/-- Entries of the system colour table (R6 `N_COLOURS`). -/
abbrev Config.colours : Nat := 64

/-- The ROM image of a cartridge (R39): two byte sequences, each with its length, and the mirror mode.
A byte not listed is 0 (the convention of R93's `.chr`, log 13). -/
structure RomImage where
  prg    : List Host.Cell
  prgLen : Nat
  chr    : List Host.Cell
  chrLen : Nat
  mirror : MirrorMode
deriving DecidableEq, Repr

/-- `PAL` (R7, R168, D8): what turns a palette address into the number that is reduced modulo 64. The first
argument says which palette contents are in force (R73, log 15). Uninterpreted. -/
opaque Config.palette : Nat → BusAddr → Nat

/-- `SYSCOLOUR` (R7, R168, D8): the fixed 64-entry system colour table. Uninterpreted (log 14). -/
opaque Config.sysColour : Fin 64 → Colour

/-- `dec` of D29 on bytes that no Save of this model wrote; `none` where they decode to no image (log 41).
Uninterpreted (log 24). -/
opaque Config.decodeStream : List Byte → Option RomImage

/-- What a stream holds after a Save that failed on it: a free value, one for each draw (log 24). -/
opaque Config.partialStream : Nat → List Byte

end Sys2Proof
end

