-- ==== Sys2Proof/Syntax.lean ====
section
/-! DEFINITION. The operations of the block and of the mapper as syntax: one constructor per row of
spec/opcode_table.json (R12, R89), and the words of the five formats (R80, R86, R87, R89). -/

namespace Sys2Proof

/-- One OAM entry as fetched: Y, tile id, attribute byte, X (R80). The attribute byte is kept whole, so that the
unassigned bits 4:2 (R82) are not lost between a word and its instruction. -/
structure OamEntry where
  y    : Byte
  tile : Byte
  attr : Byte
  x    : Byte
deriving DecidableEq, Repr

/-- The fifteen operations (R12). -/
inductive Instr where
  /-- `EVAL s` (R140). -/
  | eval (s : Scanline)
  /-- `RENDER s` (R160). -/
  | render (s : Scanline)
  /-- `DECODE8` of OAM slot `n`, whose four bytes are `e` (R120). -/
  | decode8 (n : Slot) (e : OamEntry)
  /-- `DECODE16` of OAM slot `n`, whose four bytes are `e` (R121). -/
  | decode16 (n : Slot) (e : OamEntry)
  /-- `FLIP` of the record at index `i` of RB, whose stored flags are `fv`, `fh` (R123). -/
  | flip (i : BankIndex) (fv fh : Bool)
  /-- `READPRG`: BUS read on the CPU side; the data bits are ignored (R87, R100, R110). -/
  | readPrg (a : BusAddr) (d : Byte)
  /-- `WRITEPRG`: BUS write on the CPU side (R101, R110). -/
  | writePrg (a : BusAddr) (d : Byte)
  /-- `READCHR`: BUS read on the PPU side; the data bits are ignored (R87, R102, R110). -/
  | readChr (a : BusAddr) (d : Byte)
  /-- `WRITECHR`: BUS write on the PPU side (R103, R110). -/
  | writeChr (a : BusAddr) (d : Byte)
  /-- `MRESET` (R104). -/
  | mReset
  /-- `MTICK` (R105). -/
  | mTick
  /-- `MIRQ` (R106). -/
  | mIrq
  /-- `MMIRROR` (R107). -/
  | mMirror
  /-- `MSAVE` (R108). -/
  | mSave
  /-- `MLOAD` (R109). -/
  | mLoad
deriving DecidableEq, Repr

/-- A word on one of the interfaces, with what its place carries beside the bits (log 2, log 3): the slot
number of an OAM word and the bank index of a flip are operands that the words themselves do not hold (R89). -/
inductive OpWord where
  /-- Format CMD (R86). -/
  | cmd (w : BitVec 10)
  /-- Format OAM (R80), fetched from slot `n`. -/
  | oam (n : Slot) (w : BitVec 32)
  /-- The two bits `vh` of a record (R89), fetched from index `i` of RB. -/
  | attr (i : BankIndex) (w : BitVec 2)
  /-- Format BUS (R87). -/
  | bus (w : BitVec 26)
  /-- Format CAP (R87). -/
  | cap (w : BitVec 3)
deriving DecidableEq, Repr

/-- Why the decoder rejects a word. -/
inductive DecodeError where
  /-- CAP word 6 or 7, "not an operation" (R90, D26, log 28). -/
  | unassignedCap (k : BitVec 3)
deriving DecidableEq, Repr

end Sys2Proof
end

