-- ==== Sys2Proof/WellFormed.lean ====
section
/-! DEFINITION. Which instructions are in the domain the spec gives them. -/

namespace Sys2Proof

/-- The operand of EVAL is a visible scanline, 0 to 239 (R145, opcode_table.json's note); every value of every other
operand is legal (R80, R90). -/
def Instr.WellFormed : Instr → Bool
  | .eval s => s.toNat < 240
  | .render _ => true
  | .decode8 _ _ => true
  | .decode16 _ _ => true
  | .flip _ _ _ => true
  | .readPrg _ _ => true
  | .writePrg _ _ => true
  | .readChr _ _ => true
  | .writeChr _ _ => true
  | .mReset => true
  | .mTick => true
  | .mIrq => true
  | .mMirror => true
  | .mSave => true
  | .mLoad => true

end Sys2Proof
end

