-- ==== Sys2Proof/Decode.lean ====
section
/-! DEFINITION. The decoder (R89), total and rejecting by name, and after it the encoder, both written from the
formats of spec/30_encoding.md (R80, R81, R86, R87). -/

namespace Sys2Proof

/-- Format CMD: bit 9 is the phase, bits 8:0 the scanline; every value decodes (R86). -/
def decodeCmd (w : BitVec 10) : Instr :=
  match w.getLsbD 9 with
  | false => .eval (w.extractLsb' 0 9)
  | true => .render (w.extractLsb' 0 9)

/-- The four bytes of an OAM word, byte 0 leftmost (R80, D20). -/
def entryOfWord (w : BitVec 32) : OamEntry :=
  { y := w.extractLsb' 24 8, tile := w.extractLsb' 16 8, attr := w.extractLsb' 8 8, x := w.extractLsb' 0 8 }

/-- Format OAM has no opcode field: the mode bit SPR_H16 selects the decode (R89, R91). -/
def decodeOam (h16 : Bool) (n : Slot) (w : BitVec 32) : Instr :=
  match h16 with
  | false => .decode8 n (entryOfWord w)
  | true => .decode16 n (entryOfWord w)

/-- The two bits `vh` (R89, R123). -/
def decodeAttr (i : BankIndex) (w : BitVec 2) : Instr :=
  .flip i (w.getLsbD 1) (w.getLsbD 0)

/-- Format BUS: bit 25 is the side, bit 24 the direction, bits 23:8 the address, bits 7:0 the data (R87). An address
outside the window of its side is the same operation (R110, log 34). -/
def decodeBus (w : BitVec 26) : Instr :=
  match w.getLsbD 25, w.getLsbD 24 with
  | false, false => .readChr (w.extractLsb' 8 16) (w.extractLsb' 0 8)
  | false, true => .writeChr (w.extractLsb' 8 16) (w.extractLsb' 0 8)
  | true, false => .readPrg (w.extractLsb' 8 16) (w.extractLsb' 0 8)
  | true, true => .writePrg (w.extractLsb' 8 16) (w.extractLsb' 0 8)

/-- Format CAP (R87); 6 and 7 are not operations (R90). -/
def decodeCap (w : BitVec 3) : Except DecodeError Instr :=
  match w.toNat with
  | 0 => .ok .mReset
  | 1 => .ok .mTick
  | 2 => .ok .mIrq
  | 3 => .ok .mMirror
  | 4 => .ok .mSave
  | 5 => .ok .mLoad
  | _ => .error (.unassignedCap w)

/-- The decoder (R89), under the value of the mode bit SPR_H16 (R91). -/
def decode (h16 : Bool) : OpWord → Except DecodeError Instr
  | .cmd w => .ok (decodeCmd w)
  | .oam n w => .ok (decodeOam h16 n w)
  | .attr i w => .ok (decodeAttr i w)
  | .bus w => .ok (decodeBus w)
  | .cap w => decodeCap w

/-- Which word a table row's bits are, told by how many bits there are: the formats have no common opcode field.
10 or 16 bits are CMD, 26 BUS, 2 ATTR, 3 CAP; 32 bits are a BUS word (26 bits in whole bytes) when nothing stands above
bit 25 and otherwise an OAM word; 8 bits are a CAP word (log 2). -/
def tableFormat (nbits w : Nat) : Option OpWord :=
  match nbits with
  | 2 => some (.attr 0 (BitVec.ofNat 2 w))
  | 3 => some (.cap (BitVec.ofNat 3 w))
  | 8 => if w < 8 then some (.cap (BitVec.ofNat 3 w)) else none
  | 10 => some (.cmd (BitVec.ofNat 10 w))
  | 16 => if w < 1024 then some (.cmd (BitVec.ofNat 10 w)) else none
  | 26 => some (.bus (BitVec.ofNat 26 w))
  | 32 => if w < 67108864 then some (.bus (BitVec.ofNat 26 w)) else some (.oam 0 (BitVec.ofNat 32 w))
  | _ => none

/-- The instruction the decoder reads from a table row's bits, at SPR_H16 = 0, its value at reset (log 2, log 9). -/
def decodeTableWord (nbits w : Nat) : Option Instr :=
  match tableFormat nbits w with
  | none => none
  | some ow =>
    match decode false ow with
    | .ok i => some i
    | .error _ => none

/-- The OAM word of an entry, byte 0 leftmost (R80). -/
def wordOfEntry (e : OamEntry) : BitVec 32 := e.y ++ e.tile ++ e.attr ++ e.x

/-- A BUS word from its four fields (R87). -/
def busWord (b w : Bool) (a : BusAddr) (d : Byte) : BitVec 26 := BitVec.ofBool b ++ BitVec.ofBool w ++ a ++ d

/-- A CMD word from its two fields (R86). -/
def cmdWord (phase : Bool) (s : Scanline) : BitVec 10 := BitVec.ofBool phase ++ s

/-- The encoder: the word of each operation. -/
def encode : Instr → OpWord
  | .eval s => .cmd (cmdWord false s)
  | .render s => .cmd (cmdWord true s)
  | .decode8 n e => .oam n (wordOfEntry e)
  | .decode16 n e => .oam n (wordOfEntry e)
  | .flip i fv fh => .attr i (BitVec.ofBool fv ++ BitVec.ofBool fh)
  | .readPrg a d => .bus (busWord true false a d)
  | .writePrg a d => .bus (busWord true true a d)
  | .readChr a d => .bus (busWord false false a d)
  | .writeChr a d => .bus (busWord false true a d)
  | .mReset => .cap 0
  | .mTick => .cap 1
  | .mIrq => .cap 2
  | .mMirror => .cap 3
  | .mSave => .cap 4
  | .mLoad => .cap 5

/-- The value of SPR_H16 under which an operation's word decodes to it: 1 for DECODE16, 0 for DECODE8, and any for the
rest, whose words the bit does not concern (R91). -/
def Instr.decodesUnder : Instr → Bool → Bool
  | .decode8 _ _, h16 => !h16
  | .decode16 _ _, h16 => h16
  | .eval _, _ => true
  | .render _, _ => true
  | .flip _ _ _, _ => true
  | .readPrg _ _, _ => true
  | .writePrg _ _, _ => true
  | .readChr _ _, _ => true
  | .writeChr _ _, _ => true
  | .mReset, _ => true
  | .mTick, _ => true
  | .mIrq, _ => true
  | .mMirror, _ => true
  | .mSave, _ => true
  | .mLoad, _ => true

/-- The numeric code of a mirror mode (R92, D17, log 31). -/
def mirrorCode : MirrorMode → BitVec 3
  | .horizontal => 0
  | .vertical => 1
  | .singleScreenA => 2
  | .singleScreenB => 3
  | .fourScreen => 4

end Sys2Proof
end

