-- ==== Sys2Proof/Machine/State.lean ====
section
/-! DEFINITION. The state of the machine as plain data (spec/10_state.md; INVENTORY.md, State), the reasons a step can
stop, and the state right after reset (70_reset_and_hazards.md R210, R211). -/

namespace Sys2Proof.Machine

open Sys2Proof

/-- A byte memory: the listed bytes, addresses strictly rising, no byte listed that an unlisted address reads as. -/
abbrev Memory := List Host.Cell

/-- The decoded record of one OAM entry, unflipped (R21, R22, R37). -/
structure Sprite where
  idx    : Slot
  grid   : Grid
  pal    : BitVec 2
  x      : Byte
  y      : Byte
  fh     : Bool
  fv     : Bool
  behind : Bool
deriving DecidableEq, Repr

/-- The two status flags (R32). -/
inductive Flag where
  | overflow
  | zeroHit
deriving DecidableEq, Repr

/-- The two windows a diagnostic can name (R191). -/
inductive Space where
  | chr
  | prg
deriving DecidableEq, Repr

/-- The one diagnosable event, `UNMAPPED_READ(space, addr)` (R110, R191, D23, log 5). -/
structure Diagnostic where
  space : Space
  addr  : BusAddr
deriving DecidableEq, Repr

/-- What the stream given to Save and Load holds (R108, R109, D29, log 24). -/
inductive Stream where
  /-- Nothing has been written to it. -/
  | empty
  /-- `enc(img)`: what a Save of `img` writes. The codec is uninterpreted, so the term stands for the bytes. -/
  | encoded (img : RomImage)
  /-- Bytes that no Save wrote. -/
  | raw (bytes : List Byte)
deriving DecidableEq, Repr

/-- What an operation returns to its caller, outside the block (R111; log 4). -/
inductive Returned where
  | nothing
  /-- `ReadPRG`, `ReadCHR` (R100, R102). -/
  | byte (b : Byte)
  /-- `PendingIRQ` (R106). -/
  | bool (b : Bool)
  /-- `MirrorMode` (R107). -/
  | mirror (m : MirrorMode)
  /-- `Save`, `Load`: success, or the stream's I/O failure (R108, R109, R192). -/
  | result (success : Bool)
deriving DecidableEq, Repr

/-- What an internal operation gives back inside the block (R120, R121, R123); no agent outside reads it (R40, log 3). -/
inductive Produced where
  | nothing
  /-- `DECODE8`, `DECODE16` (R120, R121). -/
  | record (sp : Sprite)
  /-- `FLIP` (R123). -/
  | grid (g : Grid)
deriving DecidableEq, Repr

/-- An internal operation run by itself. "None can be commanded from outside" (41_sprite_decode.md): no request, action or
operation starts one (log 3). -/
inductive InternalOp where
  /-- The decode of OAM slot `n`; its word is fetched from OAM (R120, R121). -/
  | decodeSlot (n : Slot)
  /-- The flip of the record at index `i` of RB; its two bits are fetched from the record (R89, R123). -/
  | flipRecord (i : BankIndex)
deriving DecidableEq, Repr

/-- What an agent outside can ask for: a command or a mapper capability (R12, R13; log 1). -/
inductive Request where
  /-- A command word from the host (R86). -/
  | command (w : BitVec 10)
  /-- A mapper transaction (R87). -/
  | transaction (w : BitVec 26)
  /-- A mapper capability (R87). -/
  | capability (w : BitVec 3)
deriving DecidableEq, Repr

/-- What another agent does between two operations (R13, R14, R32, R38, R93, R109, R210, R215; log 35). -/
inductive HostAction where
  | writeOam (a : Byte) (v : Byte)
  | setSprTable (b : Bool)
  | setSprH16 (b : Bool)
  | setShowLeft (b : Bool)
  | setBypass (b : Bool)
  /-- The host clears a flag (R32, D25, log 30). -/
  | clearFlag (f : Flag)
  /-- The background renderer writes an element of BGT (R56). -/
  | writeBgt (x : Byte) (y : FrameRow) (transparent : Bool)
  /-- The background renderer completes a row of BGT (R14, R71): bit `x` becomes `BGT[x][y]`. -/
  | writeBgtRow (y : FrameRow) (row : BitVec 256)
  /-- The background renderer or the host writes an element of FB (R38). -/
  | writeFb (x : Byte) (y : FrameRow) (c : Colour)
  /-- Another palette content comes into force (R73, log 15). -/
  | changePalette
  /-- A mapper is constructed around a ROM image (R113, R212). -/
  | construct (img : RomImage)
  /-- The stream the next Save or Load is given. -/
  | giveStream (st : Stream)
  /-- The stream's next operations fail, or work (R108, R192). -/
  | setStreamFails (b : Bool)
  /-- The reset of the block (R210, D13). -/
  | resetBlock
deriving DecidableEq, Repr

/-- One element of the total order of operations and actions (R70). -/
inductive Event where
  | op (r : Request)
  | act (a : HostAction)
deriving DecidableEq, Repr

/-- The reasons a machine may fault: there is none, since "The block raises no synchronous exception" (R190, log 32). -/
inductive Fault where
deriving DecidableEq, Repr

/-- The reasons a step has no successor state. Each is safe: nothing follows from a refused step. -/
inductive Refusal where
  /-- Raised by exec for an instruction without a meaning. Safe. -/
  | notModelled (mnemonic : String)
  /-- Raised by step when the decoder rejects CAP word 6 or 7 (R90, D26). Safe. -/
  | unassignedCapability (k : BitVec 3)
  /-- Raised by EVAL with `s >= 240` (R145, D4). Safe. -/
  | evalOutsideVisible (s : Scanline)
  /-- Raised by RENDER when the sampled height is not the one the EVAL that filled RB sampled, and by RENDER and FLIP when
  it is not the height a record was decoded with (R14, R173, R222, D14). Safe. -/
  | heightMismatch
  /-- Raised by RENDER of a non-empty RB onto a row of BGT that the background renderer has not completed (R14, R71, R215;
  log 40). Safe. -/
  | rowNotComplete (s : Scanline)
  /-- Raised by every operation but MLOAD while the ROM image holds no value after a failed Load (R192, D29). Safe. -/
  | imageHoldsNoValue
  /-- Raised by MLOAD and by the construction of a mapper for an image that is no configuration of this hardware
  (R113, R7, D9). Safe. -/
  | notAConfiguration
  /-- Raised by FLIP for an index beyond the count of RB, where the storage holds no value (R28, R210). Safe. -/
  | noSuchRecord (i : BankIndex)
deriving DecidableEq, Repr

/-- The state. The banks are the block's own (R20), with the height each was filled at; the rest belongs to other agents
(R32, R34, R38, R39) or is the model's own (`ret`, `made`, `fresh`, `internal`, `pending`). -/
structure State where
  /-- EB, the evaluation bank; its count is its length (R20). -/
  eb          : List Sprite
  /-- RB, the render bank; its count is its length (R20, R40). -/
  rb          : List Sprite
  /-- The SPR_H16 that the EVAL which filled EB sampled; none after a reset (R22, R222; log 22). -/
  ebH16       : Option Bool
  /-- The SPR_H16 that the EVAL which filled RB sampled; none after a reset (R22, R222; log 22). -/
  rbH16       : Option Bool
  /-- OVERFLOW (R32). -/
  overflow    : Bool
  /-- ZEROHIT (R32). -/
  zeroHit     : Bool
  /-- SPR_TABLE (R34). -/
  sprTable    : Bool
  /-- SPR_H16 (R34). -/
  sprH16      : Bool
  /-- SHOW_LEFT (R34). -/
  showLeft    : Bool
  /-- BYPASS (R7, R34). -/
  bypass      : Bool
  /-- OAM, 256 bytes (R38, R50). -/
  oam         : Memory
  /-- BGT, by `256 * y + x`; true means transparent (R56), and an element not listed holds no value (R211). -/
  bgt         : List (Nat × Bool)
  /-- FB, by `256 * y + x` (R57). -/
  fb          : List (Nat × Colour)
  /-- Which palette contents are in force (R73, log 15). -/
  palEpoch    : Nat
  /-- The ROM image, or no value after a failed Load (R39, R192). -/
  rom         : Option RomImage
  /-- What the stream of Save and Load holds (R108, R109). -/
  stream      : Stream
  /-- Whether that stream reports an I/O failure (R108, R192). -/
  streamFails : Bool
  /-- What the last value-returning operation returned (log 4). -/
  ret         : Returned
  /-- What the last internal operation that ran by itself gave back, inside the block (log 3). -/
  made        : Produced
  /-- The diagnostics emitted, oldest first (R191). -/
  diags       : List Diagnostic
  /-- The counter of free values (log 24). -/
  fresh       : Nat
  /-- An internal operation that is about to run by itself; none in every run that begins without one (log 3). -/
  internal    : Option InternalOp
  /-- The operations and actions still to come, in their order (R70, log 1). -/
  pending     : List Event
deriving DecidableEq, Repr

/-- The ROM image a machine has right after reset: all bytes 0 (log 13). -/
def resetImage : RomImage :=
  { prg := [], prgLen := 16384, chr := [], chrLen := 8192, mirror := .horizontal }

/-- The machine right after reset: both banks empty (R28, R210); every other element, for which the spec gives no value
(R211), at the value the log names (log 4, 5, 8 to 13, 15, 24), and nothing pending (log 1). -/
def State.reset : State :=
  { eb := [], rb := []
    ebH16 := none, rbH16 := none
    overflow := false, zeroHit := false
    sprTable := false, sprH16 := false, showLeft := true, bypass := false
    oam := [], bgt := [], fb := []
    palEpoch := 0
    rom := some resetImage
    stream := .empty, streamFails := false
    ret := .nothing, made := .nothing, diags := []
    fresh := 0
    internal := none
    pending := [] }

end Sys2Proof.Machine
end

