-- ==== Sys2Proof/Machine/Ops.lean ====
section
/-! DEFINITION. The named operations over memories, the mapper's image and the state (20_memory.md, 40_mapper_bus.md). -/

namespace Sys2Proof.Machine

open Sys2Proof

/-- What one operation answers. -/
abbrev Answer := Host.Outcome State Fault Refusal

/-! ### Sparse memories -/

/-- What is listed at an address. -/
def cellFind {α : Type} : List (Nat × α) → Nat → Option α
  | [], _ => none
  | (k, v) :: m, a => if k = a then some v else cellFind m a

/-- List a value at an address, keeping the addresses strictly rising. -/
def cellInsert {α : Type} : List (Nat × α) → Nat → α → List (Nat × α)
  | [], a, v => [(a, v)]
  | (k, w) :: m, a, v =>
    if a < k then (a, v) :: (k, w) :: m
    else if a = k then (a, v) :: m
    else (k, w) :: cellInsert m a v

/-- List nothing at an address. -/
def cellErase {α : Type} : List (Nat × α) → Nat → List (Nat × α)
  | [], _ => []
  | (k, w) :: m, a => if a = k then m else (k, w) :: cellErase m a

/-- Write a value: a value an unlisted address reads as (`unlisted v`) is not listed. -/
def cellWrite {α : Type} (unlisted : α → Bool) (m : List (Nat × α)) (a : Nat) (v : α) : List (Nat × α) :=
  if unlisted v then cellErase m a else cellInsert m a v

/-- The canonical form: addresses strictly rising and below the bound, nothing listed that an unlisted address
reads as. -/
abbrev cellsWf {α : Type} (bound : Nat) (unlisted : α → Bool) (m : List (Nat × α)) : Prop :=
  m.Pairwise (fun p q => p.1 < q.1) ∧ ∀ p ∈ m, p.1 < bound ∧ unlisted p.2 = false

/-- The canonical form of a byte memory of `bound` bytes whose unlisted bytes read `dflt`. -/
abbrev Memory.wf (bound : Nat) (dflt : Byte) (m : Memory) : Prop := cellsWf bound (· == dflt) m

/-- What an unlisted OAM byte reads as (log 10). -/
def oamUnlisted : Byte := 0xFF

/-- What an unlisted byte of a ROM image reads as (R93, log 13). -/
def romUnlisted : Byte := 0

/-- `OAM[a]` (R10, R50). -/
def oamRead (m : Memory) (a : Nat) : Byte := (cellFind m a).getD oamUnlisted

/-- An OAM byte is written from outside (R38). -/
def oamWrite (m : Memory) (a : Nat) (v : Byte) : Memory := cellWrite (· == oamUnlisted) m a v

/-- Byte `a` of a ROM byte sequence. -/
def romByte (m : Memory) (a : Nat) : Byte := (cellFind m a).getD romUnlisted

/-- Where column `x` of row `y` of the frame is held. -/
def frameKey (x y : Nat) : Nat := Config.frameWidth * y + x

/-- `BGT[x][y]`: true means transparent (R56, D12); an element nothing has written has no value (R211, log 11). -/
def bgtRead (m : List (Nat × Bool)) (x y : Nat) : Option Bool := cellFind m (frameKey x y)

/-- `not BGT[x][y]`: the background there is non-transparent (R56). -/
def bgtOpaque (m : List (Nat × Bool)) (x y : Nat) : Bool := bgtRead m x y == some false

/-- The background renderer writes `BGT[x][y]`. -/
def bgtWrite (m : List (Nat × Bool)) (x y : Nat) (b : Bool) : List (Nat × Bool) :=
  cellWrite (fun _ => false) m (frameKey x y) b

/-- The background renderer writes row `y` of BGT from column 0 on, bit `x` of `row` to column `x`, up to column `n`. -/
def bgtWriteRow (m : List (Nat × Bool)) (y : Nat) (row : BitVec 256) : Nat → List (Nat × Bool)
  | 0 => m
  | n + 1 => bgtWrite (bgtWriteRow m y row n) n y (row.getLsbD n)

/-- Row `y` of BGT is complete: every element of it has been written (R14, R71, R215). -/
def bgtRowComplete (m : List (Nat × Bool)) (y : Nat) : Bool :=
  (List.range Config.frameWidth).all fun x => (bgtRead m x y).isSome

/-- `FB[x][y]`; an element nothing has written has no value (log 12). -/
def fbRead (m : List (Nat × Colour)) (x y : Nat) : Option Colour := cellFind m (frameKey x y)

/-- `FB[x][y] <- c` (R57). -/
def fbWrite (m : List (Nat × Colour)) (x y : Nat) (c : Colour) : List (Nat × Colour) :=
  cellWrite (fun _ => false) m (frameKey x y) c

/-! ### The mapper's image -/

/-- Whether an image is a configuration of this hardware: `CHR` of exactly 8192 bytes (R113, D9), `PRG` non-empty and a
multiple of 16384 bytes (R7, R39, U20), both listed in canonical form. -/
abbrev RomImage.valid (img : RomImage) : Prop :=
  img.chrLen = Config.chrBytes ∧ 0 < img.prgLen ∧ img.prgLen % Config.prgUnit = 0 ∧
  Memory.wf img.chrLen romUnlisted img.chr ∧ Memory.wf img.prgLen romUnlisted img.prg

/-- `ReadCHR(a)` inside the window: `CHR[a]`, no wrap (R102). This is also `MemRead(CHR, a, 1)` (R51). -/
def chrByte (img : RomImage) (a : BusAddr) : Byte := romByte img.chr a.toNat

/-- `ReadPRG(a)` inside the window: `PRG[a mod len(PRG)]` (R100). -/
def prgByte (img : RomImage) (a : BusAddr) : Byte := romByte img.prg (a.toNat % img.prgLen)

/-- Whether an address lies in the pattern window 0x0000 to 0x1FFF (R51). -/
def inChrWindow (a : BusAddr) : Bool := a.toNat ≤ 0x1FFF

/-- Whether an address lies in the program window 0x8000 to 0xFFFF (R63, R100). -/
def inPrgWindow (a : BusAddr) : Bool := 0x8000 ≤ a.toNat

/-- Go on with the image the mapper holds; after a failed Load there is none and the operation is refused (R192, D29,
log 23). -/
def withImage (s : State) (k : RomImage → Answer) : Answer :=
  match s.rom with
  | some img => k img
  | none => .refused .imageHoldsNoValue

/-! ### Updates of the state -/

/-- Give a value to the caller (log 4). -/
def State.setRet (s : State) (r : Returned) : State := { s with ret := r }

/-- Give an internal operation's result back inside the block (log 3). -/
def State.setMade (s : State) (p : Produced) : State := { s with made := p }

/-- The state with another internal operation to run by itself, or none (log 3). -/
def State.setInternal (s : State) (i : Option InternalOp) : State := { s with internal := i }

/-- `diag(UNMAPPED_READ(space, a))` (R110, R191). -/
def State.emit (s : State) (d : Diagnostic) : State := { s with diags := s.diags ++ [d] }

/-- `FB[x][y] <- c` (R57). -/
def State.putFb (s : State) (x y : Nat) (c : Colour) : State := { s with fb := fbWrite s.fb x y c }

/-- The two banks with their heights and the overflow flag after an evaluation pass (R27, R140). -/
def State.setBanks (s : State) (eb rb : List Sprite) (ebH16 rbH16 : Option Bool) (overflow : Bool) : State :=
  { s with eb := eb, rb := rb, ebH16 := ebH16, rbH16 := rbH16, overflow := overflow }

/-- The image the mapper holds from now on (R109, R192). -/
def State.setRom (s : State) (r : Option RomImage) : State := { s with rom := r }

/-- What the stream holds from now on (R108). -/
def State.setStream (s : State) (st : Stream) : State := { s with stream := st }

/-- The state with a free value drawn. -/
def State.draw (s : State) : State := { s with fresh := s.fresh + 1 }

/-- The state with other events to come. -/
def State.setPending (s : State) (p : List Event) : State := { s with pending := p }

/-- A read outside a mapped window: "emit a diagnostic and return 0" (R110). -/
def unmappedRead (s : State) (sp : Space) (a : BusAddr) : State :=
  (s.emit { space := sp, addr := a }).setRet (.byte 0)

/-! ### Where an operation's word comes from -/

/-- The OAM entry of slot `n`: the four bytes at `4n` (R50, R80). -/
def oamEntry (m : Memory) (n : Slot) : OamEntry :=
  { y := oamRead m (4 * n.val), tile := oamRead m (4 * n.val + 1)
    attr := oamRead m (4 * n.val + 2), x := oamRead m (4 * n.val + 3) }

/-- The word of a request comes with it (R86, R87). -/
def requestWord : Request → OpWord
  | .command w => .cmd w
  | .transaction w => .bus w
  | .capability w => .cap w

/-- The word of an internal operation: an OAM word is read from its slot, and the bits of a flip from its record (R89;
log 3). -/
def fetchInternal (r : InternalOp) (s : State) : Except Refusal OpWord :=
  match r with
  | .decodeSlot n => .ok (.oam n (wordOfEntry (oamEntry s.oam n)))
  | .flipRecord i =>
    match s.rb[i.val]? with
    | some sp => .ok (.attr i (BitVec.ofBool sp.fv ++ BitVec.ofBool sp.fh))
    | none => .error (.noSuchRecord i)

end Sys2Proof.Machine
end

