-- ==== Sys2Proof/Machine/Flags.lean ====
section
/-! DEFINITION. The two status flags: `SetFlag` and the host's clear (10_state.md R32, R33). -/

namespace Sys2Proof.Machine

open Sys2Proof

/-- `SetFlag(f)`: the flag becomes 1 whatever it was (R32, R72). -/
def State.setFlag (s : State) (f : Flag) : State :=
  match f with
  | .overflow => { s with overflow := true }
  | .zeroHit => { s with zeroHit := true }

/-- The host clears a flag between operations (R32, D25). -/
def State.clearFlag (s : State) (f : Flag) : State :=
  match f with
  | .overflow => { s with overflow := false }
  | .zeroHit => { s with zeroHit := false }

/-- The value of a flag. -/
def State.flag (s : State) (f : Flag) : Bool :=
  match f with
  | .overflow => s.overflow
  | .zeroHit => s.zeroHit

/-- OVERFLOW after one more match, the `m`-th of a pass: set when the count goes from 8 to 9 (R143). -/
def overflowAfterMatch (m : Nat) (old : Bool) : Bool := if m = Config.limit + 1 then true else old

end Sys2Proof.Machine
end

