-- ==== Sys2Proof/Machine/Operands.lean ====
section
/-! DEFINITION. Operand assembly (30_encoding.md R88): heights, rows, addresses, pixels, colours. -/

namespace Sys2Proof.Machine

open Sys2Proof

/-- `H`: 16 if SPR_H16 else 8 (R34, R88). -/
def spriteHeight (h16 : Bool) : Nat := if h16 then 16 else 8

/-- The base of pattern table `k`: `0x1000 * k` (R52, D6, log 17). -/
def tableBase (k : Bool) : Nat := Config.patternTableBytes * k.toNat

/-- The address of the first plane byte of row `r` in 8x8 mode: "configured pattern-table base + tile id × 16 + row"
(R120). -/
def patternAddr8 (tbl : Bool) (tile : Byte) (r : Nat) : Nat := tableBase tbl + Config.tileBytes * tile.toNat + r

/-- The tile of row `r` in 8x16 mode: the tile id with bit 0 cleared, plus 1 for the bottom half (R121). -/
def tile16 (tile : Byte) (r : Nat) : Nat :=
  (tile.toNat - (tile.getLsbD 0).toNat) + (if r ≥ 8 then 1 else 0)

/-- The address of the first plane byte of row `r` in 8x16 mode (R121); bit 0 of the tile id is the bank. -/
def patternAddr16 (tile : Byte) (r : Nat) : Nat :=
  tableBase (tile.getLsbD 0) + Config.tileBytes * tile16 tile r + r % 8

/-- The address of row `r`'s first plane byte in the mode `h16`. -/
def patternAddr (h16 tbl : Bool) (tile : Byte) (r : Nat) : Nat :=
  if h16 then patternAddr16 tile r else patternAddr8 tbl tile r

/-- The pattern fetches of one decode, in their order: rows ascending, low plane then high plane (R125, D15, log 33). -/
def fetchSequence (h16 tbl : Bool) (tile : Byte) : List Nat :=
  (List.range (spriteHeight h16)).flatMap fun r =>
    [patternAddr h16 tbl tile r, patternAddr h16 tbl tile r + Config.planeGap]

/-- The bit of a plane byte that belongs to column `c` (R59, D5, log 16). -/
def columnBit (c : Nat) : Nat := 7 - c

/-- `UNPACK(lo, hi, c) = {hi[7-c], lo[7-c]}` (R122). -/
def unpack (lo hi : Byte) (c : Nat) : Pixel :=
  BitVec.ofBool (hi.getLsbD (columnBit c)) ++ BitVec.ofBool (lo.getLsbD (columnBit c))

/-- The eight pixels of a row (R122). -/
def unpackRow (lo hi : Byte) : Row := (List.range Config.spriteWidth).map (unpack lo hi)

/-- `grid[c][r]` (R21). -/
def gridPixel (g : Grid) (c r : Nat) : Pixel := (g.getD r []).getD c 0

/-- Next scanline `s + 1`, no wrap (R88, R141). -/
def nextScanline (s : Scanline) : Nat := s.toNat + 1

/-- Sprite-local row `(s - y) mod H`, floor modulo (R88, R162, D7, log 19). -/
def spriteRow (s : Nat) (y : Byte) (h : Nat) : Nat := (((s : Int) - (y.toNat : Int)) % (h : Int)).toNat

/-- Frame X of a column: `x + c`, no wrap (R88, R163). -/
def frameX (x : Byte) (c : Nat) : Nat := x.toNat + c

/-- The palette address `{0x3F1, pal, px}` (R85, R88). -/
def paletteAddr (pal : BitVec 2) (px : Pixel) : BusAddr := 0x3F1#12 ++ pal ++ px

/-- `SYSCOLOUR[PAL(0x3F10 + 4*pal + px) mod 64]` (R168) under the palette contents `epoch`. -/
def spriteColour (epoch : Nat) (pal : BitVec 2) (px : Pixel) : Colour :=
  Config.sysColour ⟨Config.palette epoch (paletteAddr pal px) % 64, Nat.mod_lt _ (by decide)⟩

end Sys2Proof.Machine
end

