-- ==== Sys2Proof/Machine/TileDecoder.lean ====
section
/-! DEFINITION. The sprite tile decoder: DECODE8, DECODE16 and FLIP (41_sprite_decode.md). -/

namespace Sys2Proof.Machine

open Sys2Proof

/-- `MemRead(CHR, a, 1)`: `ReadCHR(a)` and nothing else (R51). -/
def chrFetch (img : RomImage) (a : Nat) : Byte := chrByte img (BitVec.ofNat 16 a)

/-- Row `r` of a decode: the two plane bytes, 8 apart, combined bit by bit (R120, R121, R122). -/
def decodeRow (h16 tbl : Bool) (img : RomImage) (tile : Byte) (r : Nat) : Row :=
  unpackRow (chrFetch img (patternAddr h16 tbl tile r))
    (chrFetch img (patternAddr h16 tbl tile r + Config.planeGap))

/-- The whole grid of a decode, all `H` rows, unflipped (R124). -/
def decodeGrid (h16 tbl : Bool) (img : RomImage) (tile : Byte) : Grid :=
  (List.range (spriteHeight h16)).map (decodeRow h16 tbl img tile)

/-- The record of slot `n` with the entry `e`: `DECODE8` when `h16` is false, `DECODE16` when it is true (R120, R121).
Attribute bits 4:2 are dropped (R81, R82). -/
def decodeRecord (h16 tbl : Bool) (img : RomImage) (n : Slot) (e : OamEntry) : Sprite :=
  { idx := n, grid := decodeGrid h16 tbl img e.tile, pal := e.attr.extractLsb' 0 2, x := e.x, y := e.y
    fh := e.attr.getLsbD 6, fv := e.attr.getLsbD 7, behind := e.attr.getLsbD 5 }

/-- `FLIP(g, fh, fv, H)`, element by element (R123). -/
def flipGrid (g : Grid) (fh fv : Bool) (h : Nat) : Grid :=
  (List.range h).map fun r => (List.range Config.spriteWidth).map fun c =>
    gridPixel g (if fh then 7 - c else c) (if fv then h - 1 - r else r)

/-- `DECODE8` by itself: the record is given back inside the block, nothing else changes (R120, R127; log 3). -/
def execDecode8 (n : Slot) (e : OamEntry) (s : State) : Answer :=
  withImage s fun img => .next (s.setMade (.record (decodeRecord false s.sprTable img n e)))

/-- `DECODE16` by itself: the record is given back inside the block, nothing else changes (R121, R127; log 3). SPR_TABLE is
not an input. -/
def execDecode16 (n : Slot) (e : OamEntry) (s : State) : Answer :=
  withImage s fun img => .next (s.setMade (.record (decodeRecord true s.sprTable img n e)))

/-- `FLIP` by itself: the transform of the grid of the record at index `i` of RB is given back inside the block, and the
record is not changed (R123; log 3). `H` is the height sampled now and must be the record's (R123, R222). -/
def execFlip (i : BankIndex) (fv fh : Bool) (s : State) : Answer :=
  withImage s fun _ =>
    match s.rb[i.val]? with
    | none => .refused (.noSuchRecord i)
    | some sp =>
      if sp.grid.length = spriteHeight s.sprH16 then
        .next (s.setMade (.grid (flipGrid sp.grid fh fv (spriteHeight s.sprH16))))
      else .refused .heightMismatch

end Sys2Proof.Machine
end

