-- ==== Sys2Proof/Machine/Evaluator.lean ====
section
/-! DEFINITION. The sprite evaluator: EVAL (42_sprite_evaluate.md R140). -/

namespace Sys2Proof.Machine

open Sys2Proof

/-- The slots in the order of the scan, 0 to 63 (R142). -/
def slots : List Slot := List.finRange 64

/-- The match test at target scanline `t`: `OAM[4n] <= t < OAM[4n] + H`, integers without wrap (R141, D3). -/
def slotMatches (h16 : Bool) (oam : Memory) (t : Nat) (n : Slot) : Bool :=
  (oamRead oam (4 * n.val)).toNat ≤ t && t < (oamRead oam (4 * n.val)).toNat + spriteHeight h16

/-- `DECODE(n)` inside EVAL (R124, R140). -/
def decodeSlot (h16 tbl : Bool) (img : RomImage) (oam : Memory) (n : Slot) : Sprite :=
  decodeRecord h16 tbl img n (oamEntry oam n)

/-- The loop `scan` of R140 over the slots still to visit: `m` matches found so far, `bank` what has been appended to
EB, `ovf` the flag. The 9th match sets the flag first and, without bypass, stops the scan undecoded (R143, R196). -/
def scan (isMatch : Slot → Bool) (dec : Slot → Sprite) (byp : Bool) :
    List Slot → Nat → List Sprite → Bool → List Sprite × Bool
  | [], _, bank, ovf => (bank, ovf)
  | n :: rest, m, bank, ovf =>
    if isMatch n then
      if m + 1 ≤ Config.limit then
        scan isMatch dec byp rest (m + 1) (bank ++ [dec n]) ovf
      else if byp then
        scan isMatch dec byp rest (m + 1) (bank ++ [dec n]) (overflowAfterMatch (m + 1) ovf)
      else (bank, overflowAfterMatch (m + 1) ovf)
    else scan isMatch dec byp rest m bank ovf

/-- One evaluation pass for target scanline `t`, with the inputs as sampled at its start (R34, R140). -/
def evalPass (s : State) (img : RomImage) (t : Nat) : List Sprite × Bool :=
  scan (slotMatches s.sprH16 s.oam t) (decodeSlot s.sprH16 s.sprTable img s.oam) s.bypass slots 0 [] s.overflow

/-- `EVAL s` (R140): the handoff `RB <- EB` (R144), then the pass for scanline `s + 1` (R141). -/
def execEval (sl : Scanline) (s : State) : Answer :=
  withImage s fun img =>
    if sl.toNat < Config.frameHeight then
      .next (s.setBanks (evalPass s img (nextScanline sl)).1 s.eb (some s.sprH16) s.ebH16
        (evalPass s img (nextScanline sl)).2)
    else .refused (.evalOutsideVisible sl)

end Sys2Proof.Machine
end

