-- ==== Sys2Proof/Machine/Compositor.lean ====
section
/-! DEFINITION. The compositor: RENDER (43_sprite_render.md R160, R174). -/

namespace Sys2Proof.Machine

open Sys2Proof

/-- The body of the column loop of R160, tests in the order of R174: right edge (R163), left mask (R164), transparency
(R165), zero hit (R166), priority (R167), colour (R168). -/
def renderColumn (sl : Nat) (left : Bool) (sp : Sprite) (g : Grid) (row : Nat) (s : State) (c : Nat) : State :=
  if frameX sp.x c > 255 then s
  else if !left && frameX sp.x c < 8 then s
  else if gridPixel g c row = 0 then s
  else
    let opaqueBg := bgtOpaque s.bgt (frameX sp.x c) sl
    let s' := if sp.idx.val = 0 && opaqueBg then s.setFlag .zeroHit else s
    if sp.behind && opaqueBg then s'
    else s'.putFb (frameX sp.x c) sl (spriteColour s.palEpoch sp.pal (gridPixel g c row))

/-- One record: flip (R161), row (R162), then columns 0 to 7. -/
def renderSprite (sl : Nat) (left : Bool) (h : Nat) (s : State) (sp : Sprite) : State :=
  (List.range Config.spriteWidth).foldl
    (renderColumn sl left sp (flipGrid sp.grid sp.fh sp.fv h) (spriteRow sl sp.y h)) s

/-- The render bank, from the last record to the first (R169). -/
def renderBank (sl : Nat) (left : Bool) (h : Nat) (s : State) : State :=
  s.rb.reverse.foldl (renderSprite sl left h) s

/-- Every record of RB, and the EVAL that filled it, has the height sampled now (R173, R222, D14); a bank that no EVAL
filled is empty and has none. -/
def heightAgrees (s : State) : Bool :=
  (s.rbH16 == none || s.rbH16 == some s.sprH16) && s.rb.all fun sp => sp.grid.length == spriteHeight s.sprH16

/-- The background phase of row `y` is complete (R14, R71). An empty RB reads no element of BGT, and its RENDER is defined
in every case (R213, log 40). -/
def backgroundReady (s : State) (y : Nat) : Bool := s.rb.isEmpty || bgtRowComplete s.bgt y

/-- `RENDER s` (R160): a no-op for `s >= 240` (R170); refused when the host has broken its duty to keep the height (R173,
R222) or to complete the background's row (R14, R71). -/
def execRender (sl : Scanline) (s : State) : Answer :=
  withImage s fun _ =>
    if sl.toNat ≥ Config.frameHeight then .next s
    else if !heightAgrees s then .refused .heightMismatch
    else if !backgroundReady s sl.toNat then .refused (.rowNotComplete sl)
    else .next (renderBank sl.toNat s.showLeft (spriteHeight s.sprH16) s)

end Sys2Proof.Machine
end

