-- ==== Sys2Proof/Machine/Mapper.lean ====
section
/-! DEFINITION. The ten capabilities of the reference mapper (40_mapper_bus.md R100 to R113). -/

namespace Sys2Proof.Machine

open Sys2Proof

/-- `READPRG` (R100); outside the window R110. -/
def execReadPrg (a : BusAddr) (_d : Byte) (s : State) : Answer :=
  withImage s fun img =>
    if inPrgWindow a then .next (s.setRet (.byte (prgByte img a))) else .next (unmappedRead s .prg a)

/-- `WRITEPRG`: accepted and ignored, inside the window (R101) and outside it (R110, D16). -/
def execWritePrg (_a : BusAddr) (_d : Byte) (s : State) : Answer :=
  withImage s fun _ => .next s

/-- `READCHR` (R102); outside the window R110. -/
def execReadChr (a : BusAddr) (_d : Byte) (s : State) : Answer :=
  withImage s fun img =>
    if inChrWindow a then .next (s.setRet (.byte (chrByte img a))) else .next (unmappedRead s .chr a)

/-- `WRITECHR`: accepted and ignored, inside the window (R103) and outside it (R110, D16). -/
def execWriteChr (_a : BusAddr) (_d : Byte) (s : State) : Answer :=
  withImage s fun _ => .next s

/-- `MRESET`: no registers to reinitialise, a no-op (R104, R212). -/
def execMReset (s : State) : Answer :=
  withImage s fun _ => .next s

/-- `MTICK`: no scanline counter, a no-op (R105). -/
def execMTick (s : State) : Answer :=
  withImage s fun _ => .next s

/-- `MIRQ`: always false (R106). -/
def execMIrq (s : State) : Answer :=
  withImage s fun _ => .next (s.setRet (.bool false))

/-- `MMIRROR`: the image's fixed wiring value (R107). -/
def execMMirror (s : State) : Answer :=
  withImage s fun img => .next (s.setRet (.mirror img.mirror))

/-- `MSAVE`: writes `enc(img)` to the stream, or returns the stream's failure (R108, D29). What a failed Save leaves in
the stream is a free value (log 24). -/
def execMSave (s : State) : Answer :=
  withImage s fun img =>
    if s.streamFails then
      .next ((s.setStream (.raw (Config.partialStream s.fresh))).draw.setRet (.result false))
    else .next ((s.setStream (.encoded img)).setRet (.result true))

/-- `dec` of a stream's content (D29): `dec(enc(img)) = img` (R109); an empty stream ends before its first field
(DEDUCED, log 25); other bytes are decoded by the uninterpreted decoder (log 24), which may give no image (log 41). -/
def streamImage (st : Stream) : Option RomImage :=
  match st with
  | .empty => none
  | .encoded img => some img
  | .raw bytes => Config.decodeStream bytes

/-- `MLOAD`: a successful Load replaces the image (R109); after one that fails on the stream the image holds no value (R192,
D29); an image that is no configuration of this hardware is refused (R113). DESIGN CHOICE (log 41), unsafe: a working stream
whose bytes decode to no image, on which the spec states no result, fails like a failing stream. -/
def execMLoad (s : State) : Answer :=
  if s.streamFails then .next ((s.setRom none).setRet (.result false))
  else
    match streamImage s.stream with
    | none => .next ((s.setRom none).setRet (.result false))
    | some img =>
      if RomImage.valid img then .next ((s.setRom (some img)).setRet (.result true)) else .refused .notAConfiguration

end Sys2Proof.Machine
end

