-- ==== Sys2Proof/Machine/Environment.lean ====
section
/-! DEFINITION. The actions of the other agents between operations (00_scope.md R13, R14; 10_state.md R32, R38;
70_reset_and_hazards.md R210). -/

namespace Sys2Proof.Machine

open Sys2Proof

/-- The reset of the block: `EB.n <- 0`, `RB.n <- 0` and nothing else (R210, R211). Neither bank is then one that an EVAL
filled. -/
def resetBlock (s : State) : State := { s with eb := [], rb := [], ebH16 := none, rbH16 := none }

/-- One action (log 35). The construction of a mapper around an image that is no configuration is refused (R113). -/
def act (a : HostAction) (s : State) : Answer :=
  match a with
  | .writeOam a v => .next { s with oam := oamWrite s.oam a.toNat v }
  | .setSprTable b => .next { s with sprTable := b }
  | .setSprH16 b => .next { s with sprH16 := b }
  | .setShowLeft b => .next { s with showLeft := b }
  | .setBypass b => .next { s with bypass := b }
  | .clearFlag f => .next (s.clearFlag f)
  | .writeBgt x y b => .next { s with bgt := bgtWrite s.bgt x.toNat y.val b }
  | .writeBgtRow y row => .next { s with bgt := bgtWriteRow s.bgt y.val row Config.frameWidth }
  | .writeFb x y c => .next (s.putFb x.toNat y.val c)
  | .changePalette => .next { s with palEpoch := s.palEpoch + 1 }
  | .construct img => if RomImage.valid img then .next (s.setRom (some img)) else .refused .notAConfiguration
  | .giveStream st => .next (s.setStream st)
  | .setStreamFails b => .next { s with streamFails := b }
  | .resetBlock => .next (resetBlock s)

end Sys2Proof.Machine
end

