-- ==== Sys2Proof/Machine/Script.lean ====
section
/-! DEFINITION. The script notation and the pseudo-operations (30_encoding.md R93, R94, D19), as lists of events. -/

namespace Sys2Proof.Machine

open Sys2Proof

/-- `EVAL s`: the CMD word `{0, s}` (R93). -/
def scriptEval (s : Scanline) : Event := .op (.command (cmdWord false s))

/-- `RENDER s`: the CMD word `{1, s}` (R93). -/
def scriptRender (s : Scanline) : Event := .op (.command (cmdWord true s))

/-- `.oam n : Y T A X` (R93). -/
def scriptOam (n : Slot) (e : OamEntry) : List Event :=
  [.act (.writeOam (BitVec.ofNat 8 (4 * n.val)) e.y), .act (.writeOam (BitVec.ofNat 8 (4 * n.val + 1)) e.tile),
   .act (.writeOam (BitVec.ofNat 8 (4 * n.val + 2)) e.attr), .act (.writeOam (BitVec.ofNat 8 (4 * n.val + 3)) e.x)]

/-- `.oamfill v` (R93). -/
def scriptOamFill (v : Byte) : List Event :=
  (List.range Config.oamBytes).map fun a => .act (.writeOam (BitVec.ofNat 8 a) v)

/-- Every element of BGT is true, before the `.bg` lines say otherwise (R93). -/
def scriptBgClear : List Event :=
  (List.finRange 240).map fun y => .act (.writeBgtRow y (BitVec.allOnes 256))

/-- `.bg y : x0-x1`: non-transparent for `x0 <= x <= x1` (R93); after `scriptBgClear`. -/
def scriptBg (y : FrameRow) (x0 x1 : Byte) : List Event :=
  ((List.range Config.frameWidth).filter fun x => x0.toNat ≤ x && x ≤ x1.toNat).map fun x =>
    .act (.writeBgt (BitVec.ofNat 8 x) y false)

/-- `LINE s`: `EVAL s` then `RENDER s` (R94). -/
def scriptLine (s : Scanline) : List Event := [scriptEval s, scriptRender s]

/-- `LINES a..b` (R94). -/
def scriptLines (a b : Scanline) : List Event :=
  ((List.range 512).filter fun s => a.toNat ≤ s && s ≤ b.toNat).flatMap fun s => scriptLine (BitVec.ofNat 9 s)

/-- `FRAME`: `LINES 0..239` (R94). -/
def scriptFrame : List Event := scriptLines 0 239

end Sys2Proof.Machine
end

