-- ==== Sys2Proof/Machine/Dispatch.lean ====
section
/-! DEFINITION. The dispatch: one arm per constructor of Instr, each a direct call of its meaning. -/

namespace Sys2Proof.Machine

open Sys2Proof

/-- The meaning of one operation (R12). -/
def exec (i : Instr) (s : State) : Host.Outcome State Fault Refusal :=
  match i with
  | .eval sl => Sys2Proof.Machine.execEval sl s
  | .render sl => Sys2Proof.Machine.execRender sl s
  | .decode8 n e => Sys2Proof.Machine.execDecode8 n e s
  | .decode16 n e => Sys2Proof.Machine.execDecode16 n e s
  | .flip k fv fh => Sys2Proof.Machine.execFlip k fv fh s
  | .readPrg a d => Sys2Proof.Machine.execReadPrg a d s
  | .writePrg a d => Sys2Proof.Machine.execWritePrg a d s
  | .readChr a d => Sys2Proof.Machine.execReadChr a d s
  | .writeChr a d => Sys2Proof.Machine.execWriteChr a d s
  | .mReset => Sys2Proof.Machine.execMReset s
  | .mTick => Sys2Proof.Machine.execMTick s
  | .mIrq => Sys2Proof.Machine.execMIrq s
  | .mMirror => Sys2Proof.Machine.execMMirror s
  | .mSave => Sys2Proof.Machine.execMSave s
  | .mLoad => Sys2Proof.Machine.execMLoad s

end Sys2Proof.Machine
end

