-- ==== Sys2Proof/Machine/Step.lean ====
section
/-! DEFINITION. One step: the first event of the total order (20_memory.md R70). -/

namespace Sys2Proof.Machine

open Sys2Proof

/-- Decode and execute one word (R89, R91). -/
def runWord (w : OpWord) (s : State) : Host.Outcome State Fault Refusal :=
  match decode s.sprH16 w with
  | .ok i => exec i s
  | .error (.unassignedCap k) => .refused (.unassignedCapability k)

/-- Fetch, decode and execute one internal operation (R89). -/
def runInternal (r : InternalOp) (s : State) : Host.Outcome State Fault Refusal :=
  match fetchInternal r s with
  | .error e => .refused e
  | .ok w => runWord w s

/-- The machine's step: the first pending event is taken and carried out; with nothing pending the block "simply holds
its two banks" (R204, R213; log 1). An internal operation that is to run by itself goes first (log 3). -/
def step (s : State) : Host.Outcome State Fault Refusal :=
  match s.internal, s.pending with
  | some r, _ => runInternal r (s.setInternal none)
  | none, [] => .next s
  | none, .act a :: rest => act a (s.setPending rest)
  | none, .op r :: rest => runWord (requestWord r) (s.setPending rest)

/-- Put a record's two flip bits where a FLIP fetches them: index 0 of RB. If RB is empty, a record of transparent
pixels of the sampled height is put there to hold them (log 2). -/
def State.withFlipBits (s : State) (fv fh : Bool) : State :=
  match s.rb with
  | sp :: rest => { s with rb := { sp with fv := fv, fh := fh } :: rest }
  | [] =>
    { s with rb := [{ idx := 0, grid := List.replicate (spriteHeight s.sprH16) (List.replicate Config.spriteWidth 0)
                      pal := 0, x := 0, y := 0, fh := fh, fv := fv, behind := false }]
             rbH16 := some s.sprH16 }

/-- Put the four bytes of an OAM word where slot 0 holds them (R50, R80). -/
def State.withOamWord (s : State) (w : BitVec 32) : State :=
  { s with oam := oamWrite (oamWrite (oamWrite (oamWrite s.oam 0 (entryOfWord w).y) 1 (entryOfWord w).tile)
                    2 (entryOfWord w).attr) 3 (entryOfWord w).x }

/-- The state with one more request in front of what is pending, and no internal operation before it. -/
def State.withRequest (s : State) (r : Request) : State := (s.setInternal none).setPending (.op r :: s.pending)

/-- The state whose next step fetches and runs the word a table row's bits stand for (log 2): commands and mapper words
are requested as they are, an OAM word is placed in slot 0 and the bits of a flip in record 0 of RB, and the internal
operation is set to run (log 3). -/
def State.withFetchWord (s : State) (nbits w : Nat) : State :=
  match tableFormat nbits w with
  | none => s
  | some (.cmd c) => s.withRequest (.command c)
  | some (.oam _ o) => (s.withOamWord o).setInternal (some (.decodeSlot 0))
  | some (.attr _ v) => (s.withFlipBits (v.getLsbD 1) (v.getLsbD 0)).setInternal (some (.flipRecord 0))
  | some (.bus b) => s.withRequest (.transaction b)
  | some (.cap k) => s.withRequest (.capability k)

end Sys2Proof.Machine
end

