-- ==== Sys2Proof/Safety.lean ====
section
/-! DEFINITION. What counts as a safe run, in the terms the claims use: the invariant of the state. -/

namespace Sys2Proof.Machine

open Sys2Proof

/-- A grid of 8 columns and `h` rows (R22). -/
abbrev gridWf (h : Nat) (g : Grid) : Prop := g.length = h ∧ ∀ row ∈ g, row.length = 8

/-- A bank: at most 64 records (R23), in ascending OAM order (R24), every grid of the height that the EVAL which filled the
bank sampled (R22); a bank that no EVAL filled is empty (R210). -/
abbrev bankWf (h16 : Option Bool) (b : List Sprite) : Prop :=
  b.length ≤ 64 ∧ b.Pairwise (fun p q => p.idx < q.idx) ∧
  ∀ sp ∈ b, h16.isSome = true ∧ gridWf (spriteHeight (h16.getD false)) sp.grid

/-- The image the mapper holds, if any, is a configuration of this hardware (R7, R113). -/
abbrev romWf (r : Option RomImage) : Prop := ∀ img ∈ r, RomImage.valid img

/-- The invariant of the machine: both banks as R22 to R24 say, OAM, BGT and FB in canonical form inside their spaces
(R38), the image a configuration. -/
def State.Inv (s : State) : Prop :=
  bankWf s.ebH16 s.eb ∧ bankWf s.rbH16 s.rb ∧ Memory.wf 256 oamUnlisted s.oam ∧ cellsWf 61440 (fun _ => false) s.bgt ∧
  cellsWf 61440 (fun _ => false) s.fb ∧ romWf s.rom

/-! ### What the claims about EVAL speak of -/

/-- The matching slots at target scanline `t`, in OAM order; their number is the `M` of R142. -/
def matchingSlots (s : State) (t : Nat) : List Slot := slots.filter (slotMatches s.sprH16 s.oam t)

/-- The slots that keep a place: all of them with bypass, else the first `min(M, 8)` (R142). -/
def keptSlots (s : State) (t : Nat) : List Slot :=
  if s.bypass then matchingSlots s t else (matchingSlots s t).take 8

/-! ### What the claims about the host speak of -/

/-- What agents outside the block can read of a state: all of it but the two banks, what they were filled at and what goes
on inside the block (R40). -/
def State.hostView (s : State) : State :=
  { s with eb := [], rb := [], ebH16 := none, rbH16 := none, made := .nothing, internal := none }

/-! ### What the claims about RENDER speak of -/

/-- The host has kept the height: RENDER samples what the EVAL that filled RB sampled, and it is the height of every record
(R173, R222). -/
abbrev heightsAgree (s : State) : Prop :=
  (∀ h16 ∈ s.rbH16, h16 = s.sprH16) ∧ ∀ sp ∈ s.rb, sp.grid.length = spriteHeight s.sprH16

/-- The background phase of row `y` is complete where RENDER needs it (R14, R71, R213): RB is empty or every element of the
row has a value. -/
abbrev backgroundDone (s : State) (y : Nat) : Prop := s.rb = [] ∨ ∀ x < 256, (bgtRead s.bgt x y).isSome = true

/-- The pixel that the record `sp` has at column `x` of frame row `sl`, read through the flips without building the
flipped grid (R126); 0 outside the record's eight columns. -/
def pixelAt (h sl : Nat) (sp : Sprite) (x : Nat) : Pixel :=
  if sp.x.toNat ≤ x ∧ x < sp.x.toNat + 8 then
    gridPixel sp.grid
      (if sp.fh then 7 - (x - sp.x.toNat) else x - sp.x.toNat)
      (if sp.fv then h - 1 - spriteRow sl sp.y h else spriteRow sl sp.y h)
  else 0

/-- Tests 2 to 4 of R174 let the pixel through: inside the frame, not masked, opaque. -/
def shownAt (s : State) (sl : Nat) (x : Nat) (sp : Sprite) : Bool :=
  x ≤ 255 && (s.showLeft || 8 ≤ x) && pixelAt (spriteHeight s.sprH16) sl sp x != 0

/-- The pixel is written: tests 2 to 4 and 6 of R174. -/
def drawsAt (s : State) (sl : Nat) (x : Nat) (sp : Sprite) : Bool :=
  shownAt s sl x sp && !(sp.behind && bgtOpaque s.bgt x sl)

/-- The pixel sets the zero-hit flag: tests 2 to 5 of R174. -/
def hitsAt (s : State) (sl : Nat) (sp : Sprite) (x : Nat) : Bool :=
  shownAt s sl x sp && (sp.idx.val = 0 && bgtOpaque s.bgt x sl)

/-- The colour that the record writes at column `x` of row `sl` (R168). -/
def colourAt (s : State) (sl : Nat) (x : Nat) (sp : Sprite) : Colour :=
  spriteColour s.palEpoch sp.pal (pixelAt (spriteHeight s.sprH16) sl sp x)

end Sys2Proof.Machine
end

