-- ==== Sys2Proof/Certificates/Slice0/Obligations.lean ====
section
/-! DEFINITION. The statements for the provers: what the numbered rules of spec/ say of the operations and of the whole
machine. A docstring names the decision of 92_eei_decisions.md or the log entry that a clause rests on. -/

open Sys2Proof Sys2Proof.Machine

/-! ### Words -/

/-- Decoding the word of any operation gives the operation back, under every value of SPR_H16 that its word decodes
under (30_encoding.md R80, R86, R87, R89). The layouts are the spec's own decisions D2 (CMD), D20 (OAM as 32 bits) and D26
(BUS, CAP), log 39; the slot or record index beside the bits is log 2; that a read holds its data bits is log 34. -/
def Obligations.DecodeOfEncodeIsTheOperation : Prop :=
  ∀ (i : Instr) (h16 : Bool), i.decodesUnder h16 = true → decode h16 (encode i) = .ok i

/-- A word that decodes is the word of the operation it decodes to: no bit is lost, the ignored ones included. That an
operation keeps bits that are ignored is the model's own: R87 only says that the data bits of a read are ignored (log 34),
and R82 that attribute bits 4:2 have no effect. The layouts are the spec's own decisions D2, D20 and D26 (log 39); the index
beside the bits is log 2. -/
def Obligations.EncodeOfDecodeIsTheWord : Prop :=
  ∀ (h16 : Bool) (w : OpWord) (i : Instr), decode h16 w = .ok i → encode i = w

/-- The words the decoder rejects are exactly the CAP words 6 and 7 (R90, the spec's decision D26; log 28), and
step then refuses. -/
def Obligations.OnlyUnassignedCapabilitiesAreRejected : Prop :=
  (∀ (h16 : Bool) (w : OpWord) (e : DecodeError),
    decode h16 w = .error e ↔ ∃ k : BitVec 3, w = .cap k ∧ 6 ≤ k.toNat ∧ e = .unassignedCap k) ∧
  (∀ (s : State) (k : BitVec 3) (rest : List Event), s.internal = none → s.pending = .op (.capability k) :: rest →
    6 ≤ k.toNat → step s = .refused (.unassignedCapability k))

/-- Words written out from the formats of 30_encoding.md (R80, R86, R87, R89) and the vectors of 95_test_vectors.md. The
layouts are the spec's own decisions D2 (CMD), D20 (OAM as 32 bits) and D26 (BUS, CAP), log 39; the source gives no encoding.
The index beside the bits is log 2, and the zero data bits that a read keeps are log 34. -/
def Obligations.WrittenOutWordsDecode : Prop :=
  decode false (.cmd 0b0000001001#10) = .ok (.eval 9) ∧
  decode false (.cmd 0b1011110000#10) = .ok (.render 240) ∧
  decode false (.oam 0 0x0A010114#32) = .ok (.decode8 0 { y := 10, tile := 1, attr := 1, x := 20 }) ∧
  decode true (.oam 0 0x6405A204#32) = .ok (.decode16 0 { y := 100, tile := 5, attr := 0xA2, x := 4 }) ∧
  decode false (.attr 3 0b10#2) = .ok (.flip 3 true false) ∧
  decode false (.bus 0x2BFFF00#26) = .ok (.readPrg 0xBFFF 0) ∧
  decode false (.bus 0x38000AA#26) = .ok (.writePrg 0x8000 0xAA) ∧
  decode false (.bus 0x01FFF00#26) = .ok (.readChr 0x1FFF 0) ∧
  decode false (.bus 0x1001055#26) = .ok (.writeChr 0x0010 0x55) ∧
  decode false (.cap 5) = .ok .mLoad

/-- The pattern addresses are the concatenations of formats PA8 and PA16 (R83, R84; table bases by decision D6). -/
def Obligations.PatternAddressesAreConcatenations : Prop :=
  (∀ (tbl : Bool) (tile : Byte) (r : BitVec 3),
    patternAddr8 tbl tile r.toNat = (BitVec.ofBool tbl ++ tile ++ 0#1 ++ r).toNat ∧
    patternAddr8 tbl tile r.toNat + 8 = (BitVec.ofBool tbl ++ tile ++ 1#1 ++ r).toNat) ∧
  (∀ (tile : Byte) (r : BitVec 4),
    patternAddr16 tile r.toNat =
      (BitVec.ofBool (tile.getLsbD 0) ++ tile.extractLsb' 1 7 ++ r.extractLsb' 3 1 ++ 0#1 ++ r.extractLsb' 0 3).toNat ∧
    patternAddr16 tile r.toNat + 8 =
      (BitVec.ofBool (tile.getLsbD 0) ++ tile.extractLsb' 1 7 ++ r.extractLsb' 3 1 ++ 1#1 ++ r.extractLsb' 0 3).toNat)

/-- A decode makes `2 * H` fetches (R61, R147), in the order of R125 (the spec's decision D15, log 33), all inside the
pattern window (R54, under the table bases of decision D6, log 17). -/
def Obligations.FetchesStayInThePatternWindow : Prop :=
  ∀ (h16 tbl : Bool) (tile : Byte),
    (fetchSequence h16 tbl tile).length = 2 * spriteHeight h16 ∧
    (∀ a ∈ fetchSequence h16 tbl tile, a ≤ 0x1FFF) ∧
    (∀ r < spriteHeight h16,
      (fetchSequence h16 tbl tile)[2 * r]? = some (patternAddr h16 tbl tile r) ∧
      (fetchSequence h16 tbl tile)[2 * r + 1]? = some (patternAddr h16 tbl tile r + 8))

/-- R85: the palette address is `0x3F10 + 4*pal + px`, and its fields are where format PAL puts them. -/
def Obligations.PaletteAddressIsTheSum : Prop :=
  ∀ (pal : BitVec 2) (px : Pixel),
    (paletteAddr pal px).toNat = 0x3F10 + pal.toNat * 4 + px.toNat ∧
    (paletteAddr pal px).extractLsb' 4 12 = 0x3F1#12 ∧
    (paletteAddr pal px).extractLsb' 2 2 = pal ∧ (paletteAddr pal px).extractLsb' 0 2 = px

/-! ### Steps -/

/-- When the first pending event is a request whose word decodes to `i`, the step is `exec i` at the state with that
event taken (R70; the queue of pending events is the model's, log 1). When an internal operation is to run by itself and
its word decodes to `i`, the step is `exec i` at the state with that operation taken (log 3). -/
def Obligations.StepRunsTheDecodedOperation : Prop :=
  (∀ (s : State) (r : Request) (rest : List Event) (i : Instr),
    s.internal = none → s.pending = .op r :: rest → decode s.sprH16 (requestWord r) = .ok i →
    step s = exec i (s.setPending rest)) ∧
  (∀ (s : State) (r : InternalOp) (w : OpWord) (i : Instr),
    s.internal = some r → fetchInternal r s = .ok w → decode s.sprH16 w = .ok i →
    step s = exec i (s.setInternal none))

/-- With nothing pending the block holds its state (R204, R213); an action of another agent is carried out (log 1,
log 35). -/
def Obligations.StepHoldsOrCarriesOutAnAction : Prop :=
  (∀ s : State, s.internal = none → s.pending = [] → step s = .next s) ∧
  (∀ (s : State) (a : HostAction) (rest : List Event), s.internal = none → s.pending = .act a :: rest →
    step s = act a (s.setPending rest))

/-- The word of an internal decode is the four bytes of its slot (R50, R80), the mode bit SPR_H16 alone chooses between
DECODE8 and DECODE16 (R89, R91), and the bits of an internal flip are the record's two flags (R123). That they run by
themselves is log 3. -/
def Obligations.InternalOperationsFetchTheirOperands : Prop :=
  (∀ (s : State) (n : Slot), s.internal = some (.decodeSlot n) →
    step s =
      if s.sprH16 then
        exec (.decode16 n { y := oamRead s.oam (4 * n.val), tile := oamRead s.oam (4 * n.val + 1),
                            attr := oamRead s.oam (4 * n.val + 2), x := oamRead s.oam (4 * n.val + 3) })
          (s.setInternal none)
      else
        exec (.decode8 n { y := oamRead s.oam (4 * n.val), tile := oamRead s.oam (4 * n.val + 1),
                           attr := oamRead s.oam (4 * n.val + 2), x := oamRead s.oam (4 * n.val + 3) })
          (s.setInternal none)) ∧
  (∀ (s : State) (i : BankIndex) (sp : Sprite),
    s.internal = some (.flipRecord i) → s.rb[i.val]? = some sp →
    step s = exec (.flip i sp.fv sp.fh) (s.setInternal none))

/-! ### EVAL -/

/-- The match test is the interval `[Y, Y+H)` at `s + 1`, on byte 0 of the slot alone (R141). That the sums do not wrap is
the spec's decision D3 (log 20). -/
def Obligations.SlotMatchesExactlyItsInterval : Prop :=
  (∀ (h16 : Bool) (oam : Memory) (s : Scanline) (n : Slot),
    slotMatches h16 oam (nextScanline s) n = true ↔
      (oamRead oam (4 * n.val)).toNat ≤ s.toNat + 1 ∧
      s.toNat + 1 < (oamRead oam (4 * n.val)).toNat + (if h16 then 16 else 8)) ∧
  (∀ (h16 : Bool) (oam oam' : Memory) (t : Nat) (n : Slot),
    oamRead oam (4 * n.val) = oamRead oam' (4 * n.val) → slotMatches h16 oam t n = slotMatches h16 oam' t n)

/-- A slot with `Y >= 241` matches at no visible scanline and one with `Y = 240` only at 239 (R90, derived by the spec
from R141; no sum wraps by its decision D3, log 20). -/
def Obligations.HighSlotsAreHidden : Prop :=
  ∀ (h16 : Bool) (oam : Memory) (s : Scanline) (n : Slot), s.toNat < 240 →
    (241 ≤ (oamRead oam (4 * n.val)).toNat → slotMatches h16 oam (nextScanline s) n = false) ∧
    ((oamRead oam (4 * n.val)).toNat = 240 → (slotMatches h16 oam (nextScanline s) n = true ↔ s.toNat = 239))

/-- R142: EVAL on a visible scanline completes, and EB ends holding the records of the first `min(M, 8)` matching slots,
or of all `M` with bypass, in OAM order. -/
def Obligations.EvalFillsTheBankInOamOrder : Prop :=
  ∀ (s : State) (img : RomImage) (sl : Scanline), s.rom = some img → sl.toNat < 240 →
    ∃ t, exec (.eval sl) s = .next t ∧
      t.eb = (if s.bypass then matchingSlots s (sl.toNat + 1) else (matchingSlots s (sl.toNat + 1)).take 8).map
        (decodeSlot s.sprH16 s.sprTable img s.oam)

/-- R143: OVERFLOW is set exactly when the pass finds a 9th match, is never cleared, and the bank then holds 8 entries
without bypass and all `M` with it. -/
def Obligations.EvalSetsOverflowAtTheNinthMatch : Prop :=
  ∀ (s : State) (img : RomImage) (sl : Scanline), s.rom = some img → sl.toNat < 240 →
    ∃ t, exec (.eval sl) s = .next t ∧
      (t.overflow = true ↔ s.overflow = true ∨ 9 ≤ (matchingSlots s (sl.toNat + 1)).length) ∧
      t.eb.length = if s.bypass then (matchingSlots s (sl.toNat + 1)).length
        else min (matchingSlots s (sl.toNat + 1)).length 8

/-- Without bypass, once nine slots up to slot `k` match, nothing after byte 0 of slot `k` takes part (R143: "slots after
the 9th match ... not visited"; that the 9th is not decoded is decision D15): another OAM that agrees up to there gives
the same banks and flag. -/
def Obligations.ScanStopsAtTheNinthMatch : Prop :=
  ∀ (s : State) (img : RomImage) (sl : Scanline) (m : Memory) (k : Slot),
    s.rom = some img → sl.toNat < 240 → s.bypass = false →
    (∀ a < 4 * k.val + 1, oamRead m a = oamRead s.oam a) →
    9 ≤ ((matchingSlots s (sl.toNat + 1)).filter (· ≤ k)).length →
    ∃ b o, exec (.eval sl) s = .next (s.setBanks b s.eb (some s.sprH16) s.ebH16 o) ∧
      exec (.eval sl) { s with oam := m } = .next ({ s with oam := m }.setBanks b s.eb (some s.sprH16) s.ebH16 o)

/-- The handoff and the frame of EVAL: RB becomes the old EB, filled at the old EB's height (R144, the spec's decision D1),
EB is filled at the height sampled now (R22), and nothing but the banks and OVERFLOW changes (R27, R146). -/
def Obligations.EvalHandsOverAndChangesNothingElse : Prop :=
  ∀ (s : State) (img : RomImage) (sl : Scanline), s.rom = some img → sl.toNat < 240 →
    ∃ t, exec (.eval sl) s = .next t ∧ t.rb = s.eb ∧ t.rbH16 = s.ebH16 ∧ t.ebH16 = some s.sprH16 ∧
      t.zeroHit = s.zeroHit ∧ t.sprTable = s.sprTable ∧ t.sprH16 = s.sprH16 ∧ t.showLeft = s.showLeft ∧
      t.bypass = s.bypass ∧ (∀ a, oamRead t.oam a = oamRead s.oam a) ∧ t.bgt = s.bgt ∧
      (∀ x y, fbRead t.fb x y = fbRead s.fb x y) ∧ t.palEpoch = s.palEpoch ∧ t.rom = s.rom ∧ t.stream = s.stream ∧
      t.streamFails = s.streamFails ∧ t.ret = s.ret ∧ t.made = s.made ∧ t.diags = s.diags ∧ t.fresh = s.fresh ∧
      t.internal = s.internal ∧ t.pending = s.pending

/-- The entries of EB, the bank an EVAL fills, are in ascending OAM-index order (R24, of this bank alone), so that slot 0, if
present, is the first, which R24 marks as derived from R140. -/
def Obligations.EvalBankIsAscending : Prop :=
  ∀ (s t : State) (sl : Scanline), exec (.eval sl) s = .next t →
    t.eb.Pairwise (fun p q => p.idx < q.idx) ∧
    (∀ sp ∈ t.eb, sp.idx.val = 0 → t.eb.head? = some sp)

/-- R146: the result of EVAL does not depend on the status flags, SHOW_LEFT, BGT, FB or the old RB. It does not write
OAM, the frame buffer or ZEROHIT, and does not clear OVERFLOW. -/
def Obligations.EvalDependsOnlyOnItsInputs : Prop :=
  ∀ (s s' : State) (img : RomImage) (sl : Scanline), s.rom = some img → s'.rom = some img → sl.toNat < 240 →
    s.oam = s'.oam → s.sprH16 = s'.sprH16 → s.sprTable = s'.sprTable → s.bypass = s'.bypass → s.eb = s'.eb →
    ∃ t t' ninth, exec (.eval sl) s = .next t ∧ exec (.eval sl) s' = .next t' ∧
      t.eb = t'.eb ∧ t.rb = t'.rb ∧
      t.overflow = (s.overflow || ninth) ∧ t'.overflow = (s'.overflow || ninth) ∧
      t.oam = s.oam ∧ t.fb = s.fb ∧ t.zeroHit = s.zeroHit

/-- What a kept match contributes to EB is the record that DECODE8 or DECODE16 returns for the slot (R27, R124; which
one is the sampled SPR_H16, R140). -/
def Obligations.EvalKeepsTheRecordsThatDecodeReturns : Prop :=
  ∀ (s : State) (img : RomImage) (sl : Scanline) (n : Slot), s.rom = some img → sl.toNat < 240 →
    n ∈ keptSlots s (sl.toNat + 1) →
    ∃ t r sp, exec (.eval sl) s = .next t ∧
      exec (if s.sprH16 then .decode16 n (oamEntry s.oam n) else .decode8 n (oamEntry s.oam n)) s = .next r ∧
      r.made = .record sp ∧ sp ∈ t.eb ∧ sp.idx = n

/-- Two EVALs in a row: RB holds what the first one selected, and what waited in EB before it is gone (R220; two banks
are decision D1). -/
def Obligations.TwoEvalsLoseTheWaitingBank : Prop :=
  ∀ (s t u : State) (a b : Scanline), exec (.eval a) s = .next t → exec (.eval b) t = .next u →
    u.rb = t.eb ∧
    ∀ (bank : List Sprite), ∃ t' u', exec (.eval a) { s with eb := bank } = .next t' ∧ exec (.eval b) t' = .next u' ∧
      u'.eb = u.eb ∧ u'.rb = u.rb

/-! ### DECODE8, DECODE16 -/

/-- DECODE8 completes and gives the record of R120 back inside the block, changing nothing else; the bit order of UNPACK is
decision D5, the table base decision D6; that it runs by itself is log 3. -/
def Obligations.DecodeEightReturnsTheRecord : Prop :=
  ∀ (s : State) (img : RomImage) (n : Slot) (e : OamEntry), s.rom = some img →
    ∃ sp, exec (.decode8 n e) s = .next (s.setMade (.record sp)) ∧
      sp.idx = n ∧ sp.y = e.y ∧ sp.x = e.x ∧ sp.grid.length = 8 ∧ (∀ row ∈ sp.grid, row.length = 8) ∧
      ∀ c < 8, ∀ r < 8, gridPixel sp.grid c r =
        unpack (romByte img.chr (0x1000 * s.sprTable.toNat + 16 * e.tile.toNat + r))
          (romByte img.chr (0x1000 * s.sprTable.toNat + 16 * e.tile.toNat + r + 8)) c

/-- DECODE16 completes and gives the record of R121 back inside the block, changing nothing else and not reading SPR_TABLE;
UNPACK by decision D5, the table base by D6; that it runs by itself is log 3. -/
def Obligations.DecodeSixteenReturnsTheRecord : Prop :=
  ∀ (s : State) (img : RomImage) (n : Slot) (e : OamEntry), s.rom = some img →
    ∃ sp, exec (.decode16 n e) s = .next (s.setMade (.record sp)) ∧
      (∀ tbl : Bool, exec (.decode16 n e) { s with sprTable := tbl } =
        .next ({ s with sprTable := tbl }.setMade (.record sp))) ∧
      sp.idx = n ∧ sp.y = e.y ∧ sp.x = e.x ∧ sp.grid.length = 16 ∧ (∀ row ∈ sp.grid, row.length = 8) ∧
      ∀ c < 8, ∀ r < 16, gridPixel sp.grid c r =
        unpack (romByte img.chr (0x1000 * (e.tile.toNat % 2) +
            16 * (e.tile.toNat - e.tile.toNat % 2 + (if r ≥ 8 then 1 else 0)) + r % 8))
          (romByte img.chr (0x1000 * (e.tile.toNat % 2) +
            16 * (e.tile.toNat - e.tile.toNat % 2 + (if r ≥ 8 then 1 else 0)) + r % 8 + 8)) c

/-- UNPACK: the pixel of column `c` is `2*hi[7-c] + lo[7-c]`, always in 0 to 3 (R122; the bit order is the spec's
decision D5). -/
def Obligations.UnpackCombinesThePlanes : Prop :=
  ∀ (lo hi : Byte), ∀ c < 8,
    (unpack lo hi c).toNat = 2 * (hi.toNat / 2 ^ (7 - c) % 2) + lo.toNat / 2 ^ (7 - c) % 2

/-- R81: the layout of the attribute byte, in the record of either decode. -/
def Obligations.AttributeByteLayout : Prop :=
  ∀ (s : State) (img : RomImage) (n : Slot) (e : OamEntry), s.rom = some img →
    ∀ i ∈ [Instr.decode8 n e, Instr.decode16 n e],
      ∃ sp, exec i s = .next (s.setMade (.record sp)) ∧ sp.pal.toNat = e.attr.toNat % 4 ∧
        sp.behind.toNat = e.attr.toNat / 32 % 2 ∧ sp.fh.toNat = e.attr.toNat / 64 % 2 ∧
        sp.fv.toNat = e.attr.toNat / 128 % 2

/-- Attribute bits 4:2 have no effect on either decode, nor, in OAM, on an EVAL (R82, derived by the spec). -/
def Obligations.UnassignedAttributeBitsAreIgnored : Prop :=
  (∀ (s : State) (n : Slot) (e : OamEntry) (a : Byte), (∀ b < 8, b ∉ [2, 3, 4] → a.getLsbD b = e.attr.getLsbD b) →
    exec (.decode8 n { e with attr := a }) s = exec (.decode8 n e) s ∧
    exec (.decode16 n { e with attr := a }) s = exec (.decode16 n e) s) ∧
  (∀ (s : State) (img : RomImage) (sl : Scanline) (m : Memory), s.rom = some img → sl.toNat < 240 →
    (∀ n : Slot, ∀ k < 4, k ≠ 2 → oamRead m (4 * n.val + k) = oamRead s.oam (4 * n.val + k)) →
    (∀ n : Slot, ∀ b < 8, b ∉ [2, 3, 4] →
      (oamRead m (4 * n.val + 2)).getLsbD b = (oamRead s.oam (4 * n.val + 2)).getLsbD b) →
    ∃ t t', exec (.eval sl) s = .next t ∧ exec (.eval sl) { s with oam := m } = .next t' ∧
      t'.eb = t.eb ∧ t'.rb = t.rb ∧ t'.overflow = t.overflow)

/-- A decode depends on the pattern data only through the addresses of its fetch sequence (R61, R125). -/
def Obligations.DecodeReadsOnlyItsFetchSequence : Prop :=
  ∀ (h16 tbl : Bool) (img img' : RomImage) (n : Slot) (e : OamEntry),
    (∀ a ∈ fetchSequence h16 tbl e.tile, romByte img.chr a = romByte img'.chr a) →
    decodeRecord h16 tbl img n e = decodeRecord h16 tbl img' n e

/-! ### FLIP -/

/-- FLIP completes on a record of the sampled height and gives back the grid whose column `x` is column `7-x` under a
horizontal flip and whose row `y` is row `H-1-y` under a vertical one; with neither flag it gives the grid unchanged
(R123). The record in the bank is not changed, nor anything else. That FLIP runs by itself, and where its grid goes, is the
model's choice (log 3). -/
def Obligations.FlipMapsColumnsAndRows : Prop :=
  ∀ (s : State) (img : RomImage) (i : BankIndex) (sp : Sprite) (fv fh : Bool),
    s.rom = some img → s.rb[i.val]? = some sp → gridWf (spriteHeight s.sprH16) sp.grid →
    ∃ g, exec (.flip i fv fh) s = .next (s.setMade (.grid g)) ∧
      g.length = spriteHeight s.sprH16 ∧ (∀ row ∈ g, row.length = 8) ∧
      (∀ c < 8, ∀ r < spriteHeight s.sprH16, gridPixel g c r =
        gridPixel sp.grid (if fh then 7 - c else c) (if fv then spriteHeight s.sprH16 - 1 - r else r)) ∧
      (fh = false → fv = false → g = sp.grid)

/-- R126: FLIP with no flag is the identity, each flip is its own inverse, the two commute and together are a half-turn,
and the pixels are the same ones. -/
def Obligations.FlipIsAnInvolutionThatKeepsThePixels : Prop :=
  ∀ (h : Nat) (g : Grid), gridWf h g →
    flipGrid g false false h = g ∧
    (∀ fh fv : Bool, flipGrid (flipGrid g fh fv h) fh fv h = g) ∧
    flipGrid (flipGrid g true false h) false true h = flipGrid g true true h ∧
    flipGrid (flipGrid g false true h) true false h = flipGrid g true true h ∧
    (∀ c < 8, ∀ r < h, gridPixel (flipGrid g true true h) c r = gridPixel g (7 - c) (h - 1 - r)) ∧
    (∀ fh fv : Bool, (flipGrid g fh fv h).flatten.Perm g.flatten) ∧
    (∀ fh fv : Bool, ∀ c < 8, ∀ r < h, gridPixel (flipGrid g fh fv h) c r =
      gridPixel g (if fh then 7 - c else c) (if fv then h - 1 - r else r))

/-! ### The mapper -/

/-- R100: `ReadPRG(a) = PRG[a mod len(PRG)]` in the program window, and nothing but the returned value changes. -/
def Obligations.ReadPrgIndexesModuloTheLength : Prop :=
  ∀ (s : State) (img : RomImage) (a : BusAddr) (d : Byte), s.rom = some img → 0x8000 ≤ a.toNat →
    exec (.readPrg a d) s = .next (s.setRet (.byte (romByte img.prg (a.toNat % img.prgLen))))

/-- R102: `ReadCHR(a) = CHR[a]` in the pattern window, and nothing but the returned value changes. -/
def Obligations.ReadChrIndexesTheImage : Prop :=
  ∀ (s : State) (img : RomImage) (a : BusAddr) (d : Byte), s.rom = some img → a.toNat ≤ 0x1FFF →
    exec (.readChr a d) s = .next (s.setRet (.byte (romByte img.chr a.toNat)))

/-- A read outside the mapped windows returns 0 and emits the diagnostic `UNMAPPED_READ(space, a)`, changing nothing else
(R110; the diagnostic's content is the spec's decision D23, the list it is kept in log 5). -/
def Obligations.UnmappedReadsReturnZeroWithADiagnostic : Prop :=
  ∀ (s : State) (img : RomImage) (a : BusAddr) (d : Byte), s.rom = some img →
    (0x1FFF < a.toNat → ∃ t, exec (.readChr a d) s = .next t ∧ t.ret = .byte 0 ∧
      t = { s with ret := .byte 0, diags := s.diags ++ [{ space := .chr, addr := a }] }) ∧
    (a.toNat < 0x8000 → ∃ t, exec (.readPrg a d) s = .next t ∧ t.ret = .byte 0 ∧
      t = { s with ret := .byte 0, diags := s.diags ++ [{ space := .prg, addr := a }] })

/-- R101 and R103: WritePRG and WriteCHR are no-ops, so they never change a later read; outside the windows they are
no-ops too, without a diagnostic (R110, the spec's decision D16; log 27). -/
def Obligations.RomWritesAreIgnored : Prop :=
  ∀ (s : State) (img : RomImage) (a : BusAddr) (d : Byte), s.rom = some img →
    exec (.writePrg a d) s = .next s ∧ exec (.writeChr a d) s = .next s

/-- R104 and R105: Reset and ScanlineTick are no-ops in the reference variant. -/
def Obligations.MapperResetAndTickDoNothing : Prop :=
  ∀ (s : State) (img : RomImage), s.rom = some img → exec .mReset s = .next s ∧ exec .mTick s = .next s

/-- R106 and R107: PendingIRQ is always false, MirrorMode is the image's fixed value, and nothing else changes. -/
def Obligations.PendingIrqIsFalseAndMirrorIsFixed : Prop :=
  ∀ (s : State) (img : RomImage), s.rom = some img →
    exec .mIrq s = .next (s.setRet (.bool false)) ∧ exec .mMirror s = .next (s.setRet (.mirror img.mirror))

/-- Save on a working stream writes the image and nothing else and succeeds; on a failing one it returns the failure
(R108, R192). What a failed Save leaves in the stream is a free value (log 24). -/
def Obligations.SaveWritesTheImageOrReportsFailure : Prop :=
  ∀ (s : State) (img : RomImage), s.rom = some img →
    (s.streamFails = false →
      exec .mSave s = .next { s with stream := .encoded img, ret := .result true }) ∧
    (s.streamFails = true → ∃ bytes,
      exec .mSave s = .next { s with stream := .raw bytes, fresh := s.fresh + 1, ret := .result false })

/-- Load completes: with success, when the stream holds a configuration, replacing the image (R109); with the error
result, when the stream fails, and the image then holds no value (R192, the spec's decision D29). That a working stream which
is empty (log 25), or whose bytes decode to no image (log 41), gives that error too is the model's choice; an image that is
no configuration is refused (R113, log 26). -/
def Obligations.LoadReplacesOrLosesTheImage : Prop :=
  ∀ (s : State),
    (∀ img, s.streamFails = false → streamImage s.stream = some img → RomImage.valid img →
      exec .mLoad s = .next { s with rom := some img, ret := .result true }) ∧
    (s.streamFails = true ∨ streamImage s.stream = none →
      exec .mLoad s = .next { s with rom := none, ret := .result false }) ∧
    (∀ img, s.streamFails = false → streamImage s.stream = some img → ¬RomImage.valid img →
      exec .mLoad s = .refused .notAConfiguration)

/-- "Save then Load on the reference mapper reproduces an identical PRG/CHR byte sequence and mirror mode" (R109, S12),
whatever image the mapper holds, or has lost, in between. -/
def Obligations.SaveThenLoadRestoresTheImage : Prop :=
  ∀ (s : State) (img : RomImage) (between : Option RomImage), s.rom = some img → RomImage.valid img →
    s.streamFails = false →
    ∃ t u, exec .mSave s = .next t ∧ t.ret = .result true ∧
      exec .mLoad (t.setRom between) = .next u ∧ u.ret = .result true ∧ u.rom = some img

/-- While the image holds no value, every operation but MLOAD is refused (R192, the spec's decision D29). -/
def Obligations.NothingButLoadRunsWithoutAnImage : Prop :=
  ∀ (s : State) (i : Instr), s.rom = none → i ≠ .mLoad → exec i s = .refused .imageHoldsNoValue

/-- R112: the mapper's results are a function of the image and the operands: two states with one image give the same
results, whatever else differs, and no operation but a Load changes the image. -/
def Obligations.MapperResultsDependOnTheImageAlone : Prop :=
  (∀ (s s' : State) (img : RomImage) (a : BusAddr) (d : Byte) (i : Instr),
    s.rom = some img → s'.rom = some img → i ∈ [Instr.readPrg a d, .readChr a d, .mIrq, .mMirror] →
    ∃ t t', exec i s = .next t ∧ exec i s' = .next t' ∧ t.ret = t'.ret) ∧
  (∀ (s t : State) (i : Instr), i ≠ .mLoad → exec i s = .next t → t.rom = s.rom)

/-! ### RENDER -/

/-- RENDER on a display row completes when the host has kept the height (R160, R173, R222) and completed the row of BGT
(R14, R71; log 40). Every element of the row is the colour of the
first record, in bank order, that draws there, and else what it was (R163 to R169); every other row is what it was; the
zero-hit flag is set exactly when a record of slot 0 hits (R166). It rests on the spec's decisions D7 (row), D8 (colour)
and D12 (transparency). -/
def Obligations.RenderCompositesTheRow : Prop :=
  ∀ (s : State) (img : RomImage) (sl : Scanline), s.rom = some img → sl.toNat < 240 → heightsAgree s →
    backgroundDone s sl.toNat →
    ∃ t, exec (.render sl) s = .next t ∧
      (∀ x < 256, ∀ y, fbRead t.fb x y =
        if y = sl.toNat then
          match s.rb.find? (drawsAt s sl.toNat x) with
          | some sp => some (colourAt s sl.toNat x sp)
          | none => fbRead s.fb x y
        else fbRead s.fb x y) ∧
      t.zeroHit = (s.zeroHit || s.rb.any fun sp => (List.range 256).any (hitsAt s sl.toNat sp))

/-- R170: RENDER of a scanline of 240 or more changes nothing. -/
def Obligations.RenderBelowTheDisplayIsANoOp : Prop :=
  ∀ (s : State) (img : RomImage) (sl : Scanline), s.rom = some img → 240 ≤ sl.toNat →
    exec (.render sl) s = .next s

/-- The frame of RENDER: it writes only row `s` of FB and ZEROHIT (R57, R172), and never clears the flag (R32). -/
def Obligations.RenderChangesOnlyItsRowAndZeroHit : Prop :=
  ∀ (s t : State) (sl : Scanline), exec (.render sl) s = .next t →
    t.eb = s.eb ∧ t.rb = s.rb ∧ t.ebH16 = s.ebH16 ∧ t.rbH16 = s.rbH16 ∧ t.overflow = s.overflow ∧
    t.sprTable = s.sprTable ∧ t.sprH16 = s.sprH16 ∧
    t.showLeft = s.showLeft ∧ t.bypass = s.bypass ∧ (∀ a, oamRead t.oam a = oamRead s.oam a) ∧ t.bgt = s.bgt ∧
    t.palEpoch = s.palEpoch ∧ t.rom = s.rom ∧ t.stream = s.stream ∧ t.streamFails = s.streamFails ∧ t.ret = s.ret ∧
    t.made = s.made ∧ t.diags = s.diags ∧ t.fresh = s.fresh ∧ t.internal = s.internal ∧ t.pending = s.pending ∧
    (s.zeroHit = true → t.zeroHit = true) ∧
    (∀ x < 256, ∀ y ≠ sl.toNat, fbRead t.fb x y = fbRead s.fb x y)

/-- A column past frame X 255 is skipped, not wrapped (R163): an element of the row that no record's columns `x` to `x+7`,
taken as integers, cover keeps its value, and a column whose frame X is above 255 changes nothing at all, neither FB nor a
flag. That `x+c` does not wrap is the spec's decision D3 (log 20). -/
def Obligations.ColumnsPastTheRightEdgeAreSkipped : Prop :=
  (∀ (s t : State) (sl : Scanline) (x : Nat), exec (.render sl) s = .next t → x < 256 →
    (∀ sp ∈ s.rb, ∀ c < 8, sp.x.toNat + c ≠ x) → fbRead t.fb x sl.toNat = fbRead s.fb x sl.toNat) ∧
  (∀ (sl : Nat) (left : Bool) (sp : Sprite) (g : Grid) (row : Nat) (s : State) (c : Nat), 255 < sp.x.toNat + c →
    renderColumn sl left sp g row s c = s)

/-- With SHOW_LEFT clear, a column at frame X 0 to 7 changes nothing at all, neither FB nor a flag; so a RENDER writes nothing
there, and a zero hit it sets comes from an opaque pixel of slot 0, over a non-transparent background, at a frame X of 8 to
255. With it set the test never skips: an opaque pixel of a front sprite is written there (R164). The background test is
the spec's decision D12 (log 18), the colour D8 (log 14, log 15), the row D7 (log 19), the unwrapped sum D3 (log 20). -/
def Obligations.LeftMaskHidesEightColumns : Prop :=
  (∀ (s t : State) (sl : Scanline), exec (.render sl) s = .next t → s.showLeft = false →
    (∀ x < 8, fbRead t.fb x sl.toNat = fbRead s.fb x sl.toNat) ∧
    (s.zeroHit = false → t.zeroHit = true → ∃ sp ∈ s.rb, sp.idx.val = 0 ∧ ∃ c < 8,
      8 ≤ sp.x.toNat + c ∧ sp.x.toNat + c ≤ 255 ∧
      gridPixel (flipGrid sp.grid sp.fh sp.fv (spriteHeight s.sprH16)) c
        (spriteRow sl.toNat sp.y (spriteHeight s.sprH16)) ≠ 0 ∧
      bgtRead s.bgt (sp.x.toNat + c) sl.toNat = some false)) ∧
  (∀ (sl : Nat) (sp : Sprite) (g : Grid) (row : Nat) (s : State) (c : Nat), sp.x.toNat + c < 8 →
    renderColumn sl false sp g row s c = s) ∧
  (∀ (sl : Nat) (sp : Sprite) (g : Grid) (row : Nat) (s : State) (c : Nat), sp.x.toNat + c ≤ 255 →
    gridPixel g c row ≠ 0 → sp.behind = false →
    fbRead (renderColumn sl true sp g row s c).fb (sp.x.toNat + c) sl =
      some (spriteColour s.palEpoch sp.pal (gridPixel g c row)))

/-- The complete condition of the zero hit, column by column (R166); the `behind` flag, the palette and the other sprites
take no part. `BGT` false is non-transparent by the spec's decision D12 (log 18), the row is D7 (log 19), the unwrapped sum
D3 (log 20), and `frameY = s` the spec's own inference (91_not_in_source.md N25). -/
def Obligations.ZeroHitNeedsExactlyItsConditions : Prop :=
  ∀ (s : State) (img : RomImage) (sl : Scanline), s.rom = some img → sl.toNat < 240 → heightsAgree s →
    backgroundDone s sl.toNat →
    ∃ t, exec (.render sl) s = .next t ∧
      (t.zeroHit = true ↔ s.zeroHit = true ∨ ∃ sp ∈ s.rb, sp.idx.val = 0 ∧ ∃ c < 8,
        sp.x.toNat + c ≤ 255 ∧ (s.showLeft = true ∨ 8 ≤ sp.x.toNat + c) ∧
        gridPixel (flipGrid sp.grid sp.fh sp.fv (spriteHeight s.sprH16)) c
          (spriteRow sl.toNat sp.y (spriteHeight s.sprH16)) ≠ 0 ∧
        bgtRead s.bgt (sp.x.toNat + c) sl.toNat = some false)

/-- At one column: a transparent pixel changes nothing at all (R165); a `behind` sprite's opaque pixel over a
non-transparent background writes no element of FB; over a transparent one, or in front, it is written (R167). The polarity
of `BGT` is the spec's decision D12 (log 18), the colour written is R168 under D8 (log 14, log 15), the unwrapped sum D3
(log 20). -/
def Obligations.TransparentAndBehindPixelsAreNotDrawn : Prop :=
  ∀ (sl : Nat) (left : Bool) (sp : Sprite) (g : Grid) (row : Nat) (s : State) (c : Nat),
    (gridPixel g c row = 0 → renderColumn sl left sp g row s c = s) ∧
    (sp.behind = true → bgtRead s.bgt (sp.x.toNat + c) sl = some false →
      (renderColumn sl left sp g row s c).fb = s.fb) ∧
    (sp.x.toNat + c ≤ 255 → left = true ∨ 8 ≤ sp.x.toNat + c → gridPixel g c row ≠ 0 →
      sp.behind = false ∨ bgtRead s.bgt (sp.x.toNat + c) sl = some true →
      fbRead (renderColumn sl left sp g row s c).fb (sp.x.toNat + c) sl =
        some (spriteColour s.palEpoch sp.pal (gridPixel g c row)))

/-- In a bank in ascending OAM order (R24), where several records draw, the colour that stays is that of the lowest OAM
index (R169). A record of lower index that does not draw there hides nothing, which R169 marks as derived from R160. Where a
record draws, and its colour, rest on the spec's decisions D7 (log 19), D8 (log 14, log 15) and D12 (log 18). -/
def Obligations.LowerIndexWinsTheOverlap : Prop :=
  ∀ (s : State) (img : RomImage) (sl : Scanline) (x : Nat) (sp : Sprite), s.rom = some img → sl.toNat < 240 →
    heightsAgree s → backgroundDone s sl.toNat → s.rb.Pairwise (fun p q => p.idx < q.idx) → x < 256 → sp ∈ s.rb →
    drawsAt s sl.toNat x sp = true → (∀ q ∈ s.rb, q.idx < sp.idx → drawsAt s sl.toNat x q = false) →
    ∃ t, exec (.render sl) s = .next t ∧ fbRead t.fb x sl.toNat = some (colourAt s sl.toNat x sp)

/-- RENDER reads neither OAM nor the pattern data nor SPR_TABLE nor BYPASS nor EB: what it draws was latched by EVAL (R40,
R73, R172). -/
def Obligations.RenderDoesNotSeeWhatEvalReads : Prop :=
  ∀ (s s' : State) (img img' : RomImage) (sl : Scanline), s.rom = some img → s'.rom = some img' →
    s.rb = s'.rb → s.rbH16 = s'.rbH16 → s.sprH16 = s'.sprH16 → s.showLeft = s'.showLeft → s.bgt = s'.bgt → s.palEpoch = s'.palEpoch →
    s.fb = s'.fb → s.zeroHit = s'.zeroHit → 
    (240 ≤ sl.toNat ∨ heightsAgree s ∧ backgroundDone s sl.toNat) →
    ∃ t t', exec (.render sl) s = .next t ∧ exec (.render sl) s' = .next t' ∧ t.fb = t'.fb ∧ t.zeroHit = t'.zeroHit

/-- The row is a floor modulus, equal to the 8-bit wrapped difference modulo `H` (R162, the spec's decision D7), and where
an EVAL of the scanline before selected the slot it is the plain offset `s - Y` (R162, R221). -/
def Obligations.SpriteRowIsTheFloorModulus : Prop :=
  (∀ (h16 : Bool) (sl : Scanline) (y : Byte), sl.toNat < 240 →
    spriteRow sl.toNat y (spriteHeight h16) =
      (BitVec.ofNat 8 sl.toNat - y).toNat % spriteHeight h16) ∧
  (∀ (h16 : Bool) (oam : Memory) (n : Slot) (prev : Scanline),
    slotMatches h16 oam (nextScanline prev) n = true →
    spriteRow (prev.toNat + 1) (oamRead oam (4 * n.val)) (spriteHeight h16) =
      prev.toNat + 1 - (oamRead oam (4 * n.val)).toNat)

/-- Outside its domain an operation is refused: EVAL of a scanline of 240 or more (R145, decision D4); RENDER on a
display row where the sampled height is not the one RB was filled at, RB empty or not, or not that of a record of it (R14,
R173, R222, decision D14); RENDER of records onto a row of BGT that is not complete (R14, R71; log 40); FLIP beyond the count of RB (R28,
R210, log 38) or of a record of another height (R123, R222, decision D14). -/
def Obligations.OperationsOutsideTheirDomainAreRefused : Prop :=
  ∀ (s : State) (img : RomImage), s.rom = some img →
    (∀ sl : Scanline, 240 ≤ sl.toNat → exec (.eval sl) s = .refused (.evalOutsideVisible sl)) ∧
    (∀ sl : Scanline, sl.toNat < 240 → ¬heightsAgree s → exec (.render sl) s = .refused .heightMismatch) ∧
    (∀ sl : Scanline, sl.toNat < 240 → heightsAgree s → ¬backgroundDone s sl.toNat →
      exec (.render sl) s = .refused (.rowNotComplete sl)) ∧
    (∀ (i : BankIndex) (fv fh : Bool), s.rb.length ≤ i.val →
      exec (.flip i fv fh) s = .refused (.noSuchRecord i)) ∧
    (∀ (i : BankIndex) (fv fh : Bool) (sp : Sprite), s.rb[i.val]? = some sp →
      sp.grid.length ≠ spriteHeight s.sprH16 → exec (.flip i fv fh) s = .refused .heightMismatch)

/-! ### The whole machine -/

/-- No operation but EVAL writes a bank (R27), none but EVAL and RENDER a status flag (R33), and no operation clears a
flag (R32). -/
def Obligations.OnlyEvalAndRenderTouchBanksAndFlags : Prop :=
  ∀ (i : Instr) (s t : State), exec i s = .next t →
    ((∀ sl, i ≠ .eval sl) → t.eb = s.eb ∧ t.rb = s.rb ∧ t.ebH16 = s.ebH16 ∧ t.rbH16 = s.rbH16 ∧
      t.overflow = s.overflow) ∧
    ((∀ sl, i ≠ .render sl) → t.zeroHit = s.zeroHit ∧ t.fb = s.fb) ∧
    (s.overflow = true → t.overflow = true) ∧ (s.zeroHit = true → t.zeroHit = true)

/-- What the block may only read no operation writes: OAM, the four control, mask and configuration bits, BGT, the palette
(R34, R38, R199); nor do operations touch the events to come, start an internal operation or touch the stream's working. -/
def Obligations.NoOperationWritesItsInputs : Prop :=
  ∀ (i : Instr) (s t : State), exec i s = .next t →
    t.oam = s.oam ∧ t.sprTable = s.sprTable ∧ t.sprH16 = s.sprH16 ∧ t.showLeft = s.showLeft ∧ t.bypass = s.bypass ∧
    t.bgt = s.bgt ∧ t.palEpoch = s.palEpoch ∧ t.streamFails = s.streamFails ∧ t.internal = s.internal ∧
    t.pending = s.pending

/-- Diagnostics come from reads outside the mapped windows and from nothing else (R191): every other operation leaves them
alone, the whole block among them (R54, whose addresses rest on the spec's decision D6, log 17). That a write outside the
windows emits none is the spec's decision D16 (log 27), the diagnostic's form its decision D23; that the diagnostics are kept
as a list, from which none is ever taken back, is log 5. -/
def Obligations.OnlyUnmappedReadsEmitDiagnostics : Prop :=
  ∀ (i : Instr) (s t : State), exec i s = .next t →
    (∃ new, t.diags = s.diags ++ new) ∧
    (t.diags ≠ s.diags → (∃ a d, i = .readChr a d ∧ 0x1FFF < a.toNat) ∨ (∃ a d, i = .readPrg a d ∧ a.toNat < 0x8000))

/-- The action of another agent writes its target and nothing else (R14, R38, R73): an OAM byte, a BGT or FB element, a
row of BGT, a flag or a bit, the stream, the palette. The targets read back what was written (log 35). A mapper is constructed around
a configuration of this hardware and refused around anything else (R113; the requirement is decision D9). -/
def Obligations.HostActionsWriteTheirTarget : Prop :=
  (∀ (s : State) (a v : Byte), Memory.wf 256 oamUnlisted s.oam →
    ∃ m, act (.writeOam a v) s = .next { s with oam := m } ∧ oamRead m a.toNat = v ∧
      (∀ b ≠ a.toNat, oamRead m b = oamRead s.oam b) ∧ Memory.wf 256 oamUnlisted m) ∧
  (∀ (s : State) (x : Byte) (y : FrameRow) (b : Bool),
    ∃ m, act (.writeBgt x y b) s = .next { s with bgt := m } ∧ bgtRead m x.toNat y.val = some b ∧
      (∀ x' < 256, ∀ y', ¬(x' = x.toNat ∧ y' = y.val) → bgtRead m x' y' = bgtRead s.bgt x' y')) ∧
  (∀ (s : State) (y : FrameRow) (row : BitVec 256),
    ∃ m, act (.writeBgtRow y row) s = .next { s with bgt := m } ∧
      (∀ x < 256, bgtRead m x y.val = some (row.getLsbD x)) ∧
      (∀ x < 256, ∀ y' ≠ y.val, bgtRead m x y' = bgtRead s.bgt x y')) ∧
  (∀ (s : State) (x : Byte) (y : FrameRow) (c : Colour),
    ∃ m, act (.writeFb x y c) s = .next { s with fb := m } ∧ fbRead m x.toNat y.val = some c ∧
      (∀ x' < 256, ∀ y', ¬(x' = x.toNat ∧ y' = y.val) → fbRead m x' y' = fbRead s.fb x' y')) ∧
  (∀ (s : State) (b : Bool),
    act (.clearFlag .overflow) s = .next { s with overflow := false } ∧
    act (.clearFlag .zeroHit) s = .next { s with zeroHit := false } ∧
    act (.setSprTable b) s = .next { s with sprTable := b } ∧ act (.setSprH16 b) s = .next { s with sprH16 := b } ∧
    act (.setShowLeft b) s = .next { s with showLeft := b } ∧ act (.setBypass b) s = .next { s with bypass := b }) ∧
  (∀ (s : State) (st : Stream) (b : Bool), act (.giveStream st) s = .next { s with stream := st } ∧
    act (.setStreamFails b) s = .next { s with streamFails := b } ∧
    act .changePalette s = .next { s with palEpoch := s.palEpoch + 1 }) ∧
  (∀ (s : State) (img : RomImage),
    (RomImage.valid img → act (.construct img) s = .next { s with rom := some img }) ∧
    (¬RomImage.valid img → act (.construct img) s = .refused .notAConfiguration))

/-- The reset of the block empties both banks and touches nothing else (R210, R211; the spec's decision D13). Right after
it a RENDER draws nothing and sets no flag (R213). -/
def Obligations.BlockResetEmptiesBothBanks : Prop :=
  (∀ s : State, act .resetBlock s = .next { s with eb := [], rb := [], ebH16 := none, rbH16 := none }) ∧
  (∀ (s t : State) (img : RomImage) (sl : Scanline), s.rom = some img → act .resetBlock s = .next t →
    exec (.render sl) t = .next t) ∧
  State.reset.eb = [] ∧ State.reset.rb = []

/-- `LINE s` is EVAL s then RENDER s, and FRAME is the 480 command words of LINE 0 to LINE 239 (R94, decision D19;
95_test_vectors.md P6). -/
def Obligations.FrameIsEveryLineOnce : Prop :=
  (∀ s : Scanline, scriptLine s =
    [.op (.command (cmdWord false s)), .op (.command (cmdWord true s))]) ∧
  scriptFrame.length = 480 ∧
  (∀ k < 240, scriptFrame[2 * k]? = some (scriptEval (BitVec.ofNat 9 k)) ∧
    scriptFrame[2 * k + 1]? = some (scriptRender (BitVec.ofNat 9 k)))

/-- The invariant: at most 64 records a bank (R23) in ascending OAM order (R24) with grids of 8 columns and 8 or 16 rows
(R22), the height that the EVAL which filled the bank sampled, memories in canonical form, the image a configuration (R113).
Every step, of an operation or of another agent, keeps it, from every state that meets it. -/
def Obligations.EveryStepKeepsTheMachineWellFormed : Prop :=
  ∀ s t : State, s.Inv → step s = .next t → t.Inv

/-- The state after reset meets the invariant (its image by log 13); its banks are empty (R210, the spec's decision D13), and
OAM, BGT and FB list nothing, which is the model's choice (log 10, 11, 12). -/
def Obligations.ResetStateIsWellFormed : Prop :=
  State.reset.Inv ∧ State.reset.eb = [] ∧ State.reset.rb = [] ∧
  State.reset.oam = [] ∧ State.reset.bgt = [] ∧ State.reset.fb = []

/-! ### What the host can see -/

/-- The host can read neither bank (R40; that an internal operation may run by itself is log 3, and no host starts one). Two
states that look alike from outside step alike from outside, and are refused alike, unless the step is a RENDER of a
display row. That step tells them apart by RB alone: if RB is one and the same they step alike too, and else they still
look alike but for FB and ZEROHIT. No step leaves an internal operation to run by itself. -/
def Obligations.BanksAreHiddenFromTheHost : Prop :=
  (∀ s s' : State, s.hostView = s'.hostView → s.internal = none → s'.internal = none →
    (∀ (w : BitVec 10) (rest : List Event), s.pending = .op (.command w) :: rest → w.getLsbD 9 = true →
      240 ≤ (w.extractLsb' 0 9).toNat ∨ (s.rb = s'.rb ∧ s.rbH16 = s'.rbH16)) →
    (∃ r, step s = .refused r ∧ step s' = .refused r) ∨
    (∃ t t', step s = .next t ∧ step s' = .next t' ∧ t.hostView = t'.hostView)) ∧
  (∀ (s s' t t' : State) (sl : Scanline), s.hostView = s'.hostView → exec (.render sl) s = .next t →
    exec (.render sl) s' = .next t' →
    t'.hostView = { t.hostView with fb := t'.fb, zeroHit := t'.zeroHit }) ∧
  (∀ s t : State, s.internal = none → step s = .next t → t.internal = none)

/-- The one-scanline pipeline delay (R40, R221): a change to OAM, to the pattern data, to SPR_TABLE or to BYPASS made after
`EVAL s` has no effect on `RENDER s+1`. Two banks are decision D1 (log 6). -/
def Obligations.ChangesAfterEvalMissTheNextRender : Prop :=
  ∀ (s : State) (img img' : RomImage) (sl : Scanline) (m : Memory) (tbl byp : Bool),
    s.rom = some img → sl.toNat + 1 < 240 → (∀ x < 256, (bgtRead s.bgt x (sl.toNat + 1)).isSome = true) →
    ∃ t u u' v v', exec (.eval sl) s = .next t ∧
      exec (.eval (sl + 1)) t = .next u ∧
      exec (.eval (sl + 1)) { t with oam := m, rom := some img', sprTable := tbl, bypass := byp } = .next u' ∧
      exec (.render (sl + 1)) u = .next v ∧ exec (.render (sl + 1)) u' = .next v' ∧
      v.fb = v'.fb ∧ v.zeroHit = v'.zeroHit
end

