-- ==== Sys2Proof/Laws/Memory.lean ====
section
/-! SUPPORT. The laws of the sparse memories: a read after a write, and the canonical form kept by every write. -/

namespace Sys2Proof.Machine

open Sys2Proof

variable {α : Type}

/-! ### Reads after writes -/

theorem cellFind_insert_same (m : List (Nat × α)) (a : Nat) (v : α) : cellFind (cellInsert m a v) a = some v := by
  induction m with
  | nil => simp [cellInsert, cellFind]
  | cons p m ih =>
    obtain ⟨k, w⟩ := p
    simp only [cellInsert]
    split
    · simp [cellFind]
    · split
      · simp [cellFind]
      · next h => simp [cellFind, Ne.symm h, ih]

theorem cellFind_insert_other (m : List (Nat × α)) {a b : Nat} (v : α) (h : b ≠ a) :
    cellFind (cellInsert m a v) b = cellFind m b := by
  induction m with
  | nil => simp [cellInsert, cellFind, Ne.symm h]
  | cons p m ih =>
    obtain ⟨k, w⟩ := p
    simp only [cellInsert]
    split
    · simp [cellFind, Ne.symm h]
    · split
      · next h' => subst h'; simp [cellFind, Ne.symm h]
      · simp [cellFind, ih]

theorem cellFind_erase_other (m : List (Nat × α)) {a b : Nat} (h : b ≠ a) :
    cellFind (cellErase m a) b = cellFind m b := by
  induction m with
  | nil => rfl
  | cons p m ih =>
    obtain ⟨k, w⟩ := p
    simp only [cellErase]
    split
    · next h' => subst h'; simp [cellFind, Ne.symm h]
    · simp [cellFind, ih]

theorem cellFind_eq_none_of_lt (m : List (Nat × α)) (a : Nat) (h : ∀ p ∈ m, a < p.1) : cellFind m a = none := by
  induction m with
  | nil => rfl
  | cons p m ih =>
    have h0 := h p (by simp)
    have : cellFind m a = none := ih fun q hq => h q (by simp [hq])
    obtain ⟨k, w⟩ := p
    simp only at h0
    simp [cellFind, this]; omega

theorem cellFind_erase_same (m : List (Nat × α)) (a : Nat) (h : m.Pairwise (fun p q => p.1 < q.1)) :
    cellFind (cellErase m a) a = none := by
  induction m with
  | nil => rfl
  | cons p m ih =>
    obtain ⟨k, w⟩ := p
    rw [List.pairwise_cons] at h
    simp only [cellErase]
    split
    · next h' => subst h'; exact cellFind_eq_none_of_lt m a h.1
    · next h' => simp [cellFind, Ne.symm h', ih h.2]

/-- A write leaves every other address alone. -/
theorem cellFind_write_other (u : α → Bool) (m : List (Nat × α)) {a b : Nat} (v : α) (h : b ≠ a) :
    cellFind (cellWrite u m a v) b = cellFind m b := by
  unfold cellWrite
  split
  · exact cellFind_erase_other m h
  · exact cellFind_insert_other m v h

/-- A read after a write gives the value written: listed, or not listed because an unlisted address reads as it. -/
theorem cellFind_write_same (u : α → Bool) (m : List (Nat × α)) (a : Nat) (v : α)
    (h : m.Pairwise (fun p q => p.1 < q.1)) :
    cellFind (cellWrite u m a v) a = if u v then none else some v := by
  unfold cellWrite
  split
  · exact cellFind_erase_same m a h
  · exact cellFind_insert_same m a v

/-! ### The canonical form -/

theorem mem_cellInsert {m : List (Nat × α)} {a : Nat} {v : α} {p : Nat × α} (h : p ∈ cellInsert m a v) :
    p = (a, v) ∨ p ∈ m := by
  induction m with
  | nil => simpa [cellInsert] using h
  | cons q m ih =>
    obtain ⟨k, w⟩ := q
    simp only [cellInsert] at h
    split at h
    · simpa using h
    · split at h
      · rcases List.mem_cons.1 h with h | h
        · exact .inl h
        · exact .inr (by simp [h])
      · rcases List.mem_cons.1 h with h | h
        · exact .inr (by simp [h])
        · rcases ih h with h | h
          · exact .inl h
          · exact .inr (by simp [h])

theorem mem_of_mem_cellErase {m : List (Nat × α)} {a : Nat} {p : Nat × α} (h : p ∈ cellErase m a) : p ∈ m := by
  induction m with
  | nil => simp [cellErase] at h
  | cons q m ih =>
    obtain ⟨k, w⟩ := q
    simp only [cellErase] at h
    split at h
    · simp [h]
    · rcases List.mem_cons.1 h with h | h
      · simp [h]
      · simp [ih h]

theorem cellInsert_sorted (m : List (Nat × α)) (a : Nat) (v : α) (h : m.Pairwise (fun p q => p.1 < q.1)) :
    (cellInsert m a v).Pairwise (fun p q => p.1 < q.1) := by
  induction m with
  | nil => simp [cellInsert]
  | cons q m ih =>
    obtain ⟨k, w⟩ := q
    have h' := List.pairwise_cons.1 h
    simp only [cellInsert]
    split
    · next hlt =>
      refine List.pairwise_cons.2 ⟨fun p hp => ?_, h⟩
      rcases List.mem_cons.1 hp with rfl | hp
      · exact hlt
      · exact Nat.lt_trans hlt (h'.1 p hp)
    · split
      · next heq => subst heq; exact List.pairwise_cons.2 ⟨fun p hp => h'.1 p hp, h'.2⟩
      · refine List.pairwise_cons.2 ⟨fun p hp => ?_, ih h'.2⟩
        rcases mem_cellInsert hp with rfl | hp
        · simp only; omega
        · exact h'.1 p hp

theorem cellErase_sorted (m : List (Nat × α)) (a : Nat) (h : m.Pairwise (fun p q => p.1 < q.1)) :
    (cellErase m a).Pairwise (fun p q => p.1 < q.1) := by
  induction m with
  | nil => simp [cellErase]
  | cons q m ih =>
    obtain ⟨k, w⟩ := q
    have h' := List.pairwise_cons.1 h
    simp only [cellErase]
    split
    · exact h'.2
    · exact List.pairwise_cons.2 ⟨fun p hp => h'.1 p (mem_of_mem_cellErase hp), ih h'.2⟩

/-- Every write inside the bound keeps the canonical form. -/
theorem cellWrite_wf {bound : Nat} {u : α → Bool} {m : List (Nat × α)} {a : Nat} {v : α}
    (h : cellsWf bound u m) (ha : a < bound) : cellsWf bound u (cellWrite u m a v) := by
  unfold cellWrite
  split
  · exact ⟨cellErase_sorted m a h.1, fun p hp => h.2 p (mem_of_mem_cellErase hp)⟩
  · next hu =>
    refine ⟨cellInsert_sorted m a v h.1, fun p hp => ?_⟩
    rcases mem_cellInsert hp with rfl | hp
    · exact ⟨ha, by simpa using hu⟩
    · exact h.2 p hp

/-- Two canonical memories that list the same values are the same data. -/
theorem cells_ext {m n : List (Nat × α)} (hm : m.Pairwise (fun p q => p.1 < q.1))
    (hn : n.Pairwise (fun p q => p.1 < q.1)) (h : ∀ a, cellFind m a = cellFind n a) : m = n := by
  induction m generalizing n with
  | nil =>
    cases n with
    | nil => rfl
    | cons q n => have := h q.1; simp [cellFind] at this
  | cons p m ih =>
    cases n with
    | nil => have := h p.1; simp [cellFind] at this
    | cons q n =>
      obtain ⟨k, v⟩ := p
      obtain ⟨l, w⟩ := q
      have hm' := List.pairwise_cons.1 hm
      have hn' := List.pairwise_cons.1 hn
      have hkl : k = l := by
        rcases Nat.lt_trichotomy k l with hlt | heq | hgt
        · have hk := h k
          rw [cellFind_eq_none_of_lt ((l, w) :: n) k (fun q hq => by
            rcases List.mem_cons.1 hq with rfl | hq
            · exact hlt
            · exact Nat.lt_trans hlt (hn'.1 q hq))] at hk
          simp [cellFind] at hk
        · exact heq
        · have hl := h l
          rw [cellFind_eq_none_of_lt ((k, v) :: m) l (fun q hq => by
            rcases List.mem_cons.1 hq with rfl | hq
            · exact hgt
            · exact Nat.lt_trans hgt (hm'.1 q hq))] at hl
          simp [cellFind] at hl
      subst hkl
      have hv : v = w := by simpa [cellFind] using h k
      subst hv
      refine congrArg _ (ih hm'.2 hn'.2 fun a => ?_)
      by_cases ha : k = a
      · subst ha
        rw [cellFind_eq_none_of_lt m k hm'.1, cellFind_eq_none_of_lt n k hn'.1]
      · simpa [cellFind, ha] using h a

/-! ### OAM, BGT, FB -/

theorem oamRead_write_same {m : Memory} (h : Memory.wf 256 oamUnlisted m) (a : Nat) (v : Byte) :
    oamRead (oamWrite m a v) a = v := by
  unfold oamRead oamWrite
  rw [cellFind_write_same _ _ _ _ h.1]
  split
  · next hv => exact (eq_of_beq hv).symm
  · rfl

theorem oamRead_write_other (m : Memory) {a b : Nat} (v : Byte) (h : b ≠ a) :
    oamRead (oamWrite m a v) b = oamRead m b := by
  unfold oamRead oamWrite
  rw [cellFind_write_other _ _ _ h]

theorem bgtRead_write_same (m : List (Nat × Bool)) (x y : Nat) (b : Bool) :
    bgtRead (bgtWrite m x y b) x y = some b := by
  simp [bgtRead, bgtWrite, cellWrite, cellFind_insert_same]

/-- Frame coordinates with `x` inside the frame have keys of their own. -/
theorem frameKey_inj {x y x' y' : Nat} (hx : x < 256) (hx' : x' < 256) (h : frameKey x y = frameKey x' y') :
    x = x' ∧ y = y' := by
  simp only [frameKey, Config.frameWidth] at h
  omega

theorem frameKey_lt {x y : Nat} (hx : x < 256) (hy : y < 240) : frameKey x y < 61440 := by
  simp only [frameKey, Config.frameWidth]
  omega

theorem bgtRead_write_other (m : List (Nat × Bool)) {x y x' y' : Nat} (b : Bool) (hx : x < 256) (hx' : x' < 256)
    (h : ¬(x' = x ∧ y' = y)) : bgtRead (bgtWrite m x y b) x' y' = bgtRead m x' y' := by
  unfold bgtRead bgtWrite
  rw [cellFind_write_other _ _ _ (fun he => h (frameKey_inj hx' hx he))]

theorem fbRead_write_same (m : List (Nat × Colour)) (x y : Nat) (c : Colour) :
    fbRead (fbWrite m x y c) x y = some c := by
  simp [fbRead, fbWrite, cellWrite, cellFind_insert_same]

theorem fbRead_write_other (m : List (Nat × Colour)) {x y x' y' : Nat} (c : Colour) (hx : x < 256) (hx' : x' < 256)
    (h : ¬(x' = x ∧ y' = y)) : fbRead (fbWrite m x y c) x' y' = fbRead m x' y' := by
  unfold fbRead fbWrite
  rw [cellFind_write_other _ _ _ (fun he => h (frameKey_inj hx' hx he))]

theorem oamWrite_wf {m : Memory} {a : Nat} {v : Byte} (h : Memory.wf 256 oamUnlisted m) (ha : a < 256) :
    Memory.wf 256 oamUnlisted (oamWrite m a v) := cellWrite_wf h ha

theorem bgtWrite_wf {m : List (Nat × Bool)} {x y : Nat} {b : Bool} (h : cellsWf 61440 (fun _ => false) m)
    (hx : x < 256) (hy : y < 240) : cellsWf 61440 (fun _ => false) (bgtWrite m x y b) :=
  cellWrite_wf h (frameKey_lt hx hy)

/-- A row of BGT written up to column `n`: those columns hold the row's bits, every other element what it held. -/
theorem bgtRead_writeRow (m : List (Nat × Bool)) (y : Nat) (row : BitVec 256) {n x : Nat} (hn : n ≤ 256) (hx : x < 256)
    (y' : Nat) :
    bgtRead (bgtWriteRow m y row n) x y' = if y' = y ∧ x < n then some (row.getLsbD x) else bgtRead m x y' := by
  induction n with
  | zero => simp [bgtWriteRow]
  | succ n ih =>
    by_cases h : x = n ∧ y' = y
    · obtain ⟨rfl, rfl⟩ := h
      simp [bgtWriteRow, bgtRead_write_same]
    · rw [bgtWriteRow, bgtRead_write_other _ _ (by omega) hx h, ih (by omega)]
      have : (y' = y ∧ x < n) ↔ (y' = y ∧ x < n + 1) := by omega
      simp only [this]

theorem bgtWriteRow_wf {m : List (Nat × Bool)} {y : Nat} {row : BitVec 256} (h : cellsWf 61440 (fun _ => false) m)
    (hy : y < 240) {n : Nat} (hn : n ≤ 256) : cellsWf 61440 (fun _ => false) (bgtWriteRow m y row n) := by
  induction n with
  | zero => exact h
  | succ n ih => exact bgtWrite_wf (ih (by omega)) (by omega) hy

theorem fbWrite_wf {m : List (Nat × Colour)} {x y : Nat} {c : Colour} (h : cellsWf 61440 (fun _ => false) m)
    (hx : x < 256) (hy : y < 240) : cellsWf 61440 (fun _ => false) (fbWrite m x y c) :=
  cellWrite_wf h (frameKey_lt hx hy)

end Sys2Proof.Machine
end

