-- ==== Sys2Proof/Laws/Ops.lean ====
section
/-! SUPPORT. What the shared operations over the mapper's image can do. -/

namespace Sys2Proof.Machine

open Sys2Proof

theorem withImage_some {s : State} {img : RomImage} (h : s.rom = some img) (k : RomImage → Answer) :
    withImage s k = k img := by simp [withImage, h]

theorem withImage_none {s : State} (h : s.rom = none) (k : RomImage → Answer) :
    withImage s k = .refused .imageHoldsNoValue := by simp [withImage, h]

/-- An operation that needs the image answers a next state only when there is one. -/
theorem withImage_next {s t : State} {k : RomImage → Answer} (h : withImage s k = .next t) :
    ∃ img, s.rom = some img ∧ k img = .next t := by
  cases hr : s.rom with
  | none => simp [withImage, hr] at h
  | some img => exact ⟨img, rfl, by simpa [withImage, hr] using h⟩

/-- A next state names its state. -/
theorem next_inj {s t : State} : ((Host.Outcome.next s : Answer) = .next t) ↔ s = t :=
  ⟨fun h => by injection h, fun h => by rw [h]⟩

end Sys2Proof.Machine
end

