-- ==== Sys2Proof/Laws/State.lean ====
section
/-! SUPPORT. One lemma per field of State and per named update, so that no proof unfolds a record update. -/

namespace Sys2Proof.Machine

open Sys2Proof

variable (s : State)

/-! ### setRet -/
@[simp] theorem State.setRet_eb (r : Returned) : (s.setRet r).eb = s.eb := rfl
@[simp] theorem State.setRet_rb (r : Returned) : (s.setRet r).rb = s.rb := rfl
@[simp] theorem State.setRet_ebH16 (r : Returned) : (s.setRet r).ebH16 = s.ebH16 := rfl
@[simp] theorem State.setRet_rbH16 (r : Returned) : (s.setRet r).rbH16 = s.rbH16 := rfl
@[simp] theorem State.setRet_overflow (r : Returned) : (s.setRet r).overflow = s.overflow := rfl
@[simp] theorem State.setRet_zeroHit (r : Returned) : (s.setRet r).zeroHit = s.zeroHit := rfl
@[simp] theorem State.setRet_sprTable (r : Returned) : (s.setRet r).sprTable = s.sprTable := rfl
@[simp] theorem State.setRet_sprH16 (r : Returned) : (s.setRet r).sprH16 = s.sprH16 := rfl
@[simp] theorem State.setRet_showLeft (r : Returned) : (s.setRet r).showLeft = s.showLeft := rfl
@[simp] theorem State.setRet_bypass (r : Returned) : (s.setRet r).bypass = s.bypass := rfl
@[simp] theorem State.setRet_oam (r : Returned) : (s.setRet r).oam = s.oam := rfl
@[simp] theorem State.setRet_bgt (r : Returned) : (s.setRet r).bgt = s.bgt := rfl
@[simp] theorem State.setRet_fb (r : Returned) : (s.setRet r).fb = s.fb := rfl
@[simp] theorem State.setRet_palEpoch (r : Returned) : (s.setRet r).palEpoch = s.palEpoch := rfl
@[simp] theorem State.setRet_rom (r : Returned) : (s.setRet r).rom = s.rom := rfl
@[simp] theorem State.setRet_stream (r : Returned) : (s.setRet r).stream = s.stream := rfl
@[simp] theorem State.setRet_streamFails (r : Returned) : (s.setRet r).streamFails = s.streamFails := rfl
@[simp] theorem State.setRet_ret (r : Returned) : (s.setRet r).ret = r := rfl
@[simp] theorem State.setRet_made (r : Returned) : (s.setRet r).made = s.made := rfl
@[simp] theorem State.setRet_diags (r : Returned) : (s.setRet r).diags = s.diags := rfl
@[simp] theorem State.setRet_fresh (r : Returned) : (s.setRet r).fresh = s.fresh := rfl
@[simp] theorem State.setRet_internal (r : Returned) : (s.setRet r).internal = s.internal := rfl
@[simp] theorem State.setRet_pending (r : Returned) : (s.setRet r).pending = s.pending := rfl

/-! ### emit -/
@[simp] theorem State.emit_eb (d : Diagnostic) : (s.emit d).eb = s.eb := rfl
@[simp] theorem State.emit_rb (d : Diagnostic) : (s.emit d).rb = s.rb := rfl
@[simp] theorem State.emit_ebH16 (d : Diagnostic) : (s.emit d).ebH16 = s.ebH16 := rfl
@[simp] theorem State.emit_rbH16 (d : Diagnostic) : (s.emit d).rbH16 = s.rbH16 := rfl
@[simp] theorem State.emit_overflow (d : Diagnostic) : (s.emit d).overflow = s.overflow := rfl
@[simp] theorem State.emit_zeroHit (d : Diagnostic) : (s.emit d).zeroHit = s.zeroHit := rfl
@[simp] theorem State.emit_sprTable (d : Diagnostic) : (s.emit d).sprTable = s.sprTable := rfl
@[simp] theorem State.emit_sprH16 (d : Diagnostic) : (s.emit d).sprH16 = s.sprH16 := rfl
@[simp] theorem State.emit_showLeft (d : Diagnostic) : (s.emit d).showLeft = s.showLeft := rfl
@[simp] theorem State.emit_bypass (d : Diagnostic) : (s.emit d).bypass = s.bypass := rfl
@[simp] theorem State.emit_oam (d : Diagnostic) : (s.emit d).oam = s.oam := rfl
@[simp] theorem State.emit_bgt (d : Diagnostic) : (s.emit d).bgt = s.bgt := rfl
@[simp] theorem State.emit_fb (d : Diagnostic) : (s.emit d).fb = s.fb := rfl
@[simp] theorem State.emit_palEpoch (d : Diagnostic) : (s.emit d).palEpoch = s.palEpoch := rfl
@[simp] theorem State.emit_rom (d : Diagnostic) : (s.emit d).rom = s.rom := rfl
@[simp] theorem State.emit_stream (d : Diagnostic) : (s.emit d).stream = s.stream := rfl
@[simp] theorem State.emit_streamFails (d : Diagnostic) : (s.emit d).streamFails = s.streamFails := rfl
@[simp] theorem State.emit_ret (d : Diagnostic) : (s.emit d).ret = s.ret := rfl
@[simp] theorem State.emit_made (d : Diagnostic) : (s.emit d).made = s.made := rfl
@[simp] theorem State.emit_diags (d : Diagnostic) : (s.emit d).diags = s.diags ++ [d] := rfl
@[simp] theorem State.emit_fresh (d : Diagnostic) : (s.emit d).fresh = s.fresh := rfl
@[simp] theorem State.emit_internal (d : Diagnostic) : (s.emit d).internal = s.internal := rfl
@[simp] theorem State.emit_pending (d : Diagnostic) : (s.emit d).pending = s.pending := rfl

/-! ### putFb -/
@[simp] theorem State.putFb_eb (x y : Nat) (c : Colour) : (s.putFb x y c).eb = s.eb := rfl
@[simp] theorem State.putFb_rb (x y : Nat) (c : Colour) : (s.putFb x y c).rb = s.rb := rfl
@[simp] theorem State.putFb_ebH16 (x y : Nat) (c : Colour) : (s.putFb x y c).ebH16 = s.ebH16 := rfl
@[simp] theorem State.putFb_rbH16 (x y : Nat) (c : Colour) : (s.putFb x y c).rbH16 = s.rbH16 := rfl
@[simp] theorem State.putFb_overflow (x y : Nat) (c : Colour) : (s.putFb x y c).overflow = s.overflow := rfl
@[simp] theorem State.putFb_zeroHit (x y : Nat) (c : Colour) : (s.putFb x y c).zeroHit = s.zeroHit := rfl
@[simp] theorem State.putFb_sprTable (x y : Nat) (c : Colour) : (s.putFb x y c).sprTable = s.sprTable := rfl
@[simp] theorem State.putFb_sprH16 (x y : Nat) (c : Colour) : (s.putFb x y c).sprH16 = s.sprH16 := rfl
@[simp] theorem State.putFb_showLeft (x y : Nat) (c : Colour) : (s.putFb x y c).showLeft = s.showLeft := rfl
@[simp] theorem State.putFb_bypass (x y : Nat) (c : Colour) : (s.putFb x y c).bypass = s.bypass := rfl
@[simp] theorem State.putFb_oam (x y : Nat) (c : Colour) : (s.putFb x y c).oam = s.oam := rfl
@[simp] theorem State.putFb_bgt (x y : Nat) (c : Colour) : (s.putFb x y c).bgt = s.bgt := rfl
@[simp] theorem State.putFb_fb (x y : Nat) (c : Colour) : (s.putFb x y c).fb = fbWrite s.fb x y c := rfl
@[simp] theorem State.putFb_palEpoch (x y : Nat) (c : Colour) : (s.putFb x y c).palEpoch = s.palEpoch := rfl
@[simp] theorem State.putFb_rom (x y : Nat) (c : Colour) : (s.putFb x y c).rom = s.rom := rfl
@[simp] theorem State.putFb_stream (x y : Nat) (c : Colour) : (s.putFb x y c).stream = s.stream := rfl
@[simp] theorem State.putFb_streamFails (x y : Nat) (c : Colour) : (s.putFb x y c).streamFails = s.streamFails := rfl
@[simp] theorem State.putFb_ret (x y : Nat) (c : Colour) : (s.putFb x y c).ret = s.ret := rfl
@[simp] theorem State.putFb_made (x y : Nat) (c : Colour) : (s.putFb x y c).made = s.made := rfl
@[simp] theorem State.putFb_diags (x y : Nat) (c : Colour) : (s.putFb x y c).diags = s.diags := rfl
@[simp] theorem State.putFb_fresh (x y : Nat) (c : Colour) : (s.putFb x y c).fresh = s.fresh := rfl
@[simp] theorem State.putFb_internal (x y : Nat) (c : Colour) : (s.putFb x y c).internal = s.internal := rfl
@[simp] theorem State.putFb_pending (x y : Nat) (c : Colour) : (s.putFb x y c).pending = s.pending := rfl

/-! ### setBanks -/
@[simp] theorem State.setBanks_eb (e r : List Sprite) (eh rh : Option Bool) (o : Bool) :
    (s.setBanks e r eh rh o).eb = e := rfl
@[simp] theorem State.setBanks_rb (e r : List Sprite) (eh rh : Option Bool) (o : Bool) :
    (s.setBanks e r eh rh o).rb = r := rfl
@[simp] theorem State.setBanks_ebH16 (e r : List Sprite) (eh rh : Option Bool) (o : Bool) :
    (s.setBanks e r eh rh o).ebH16 = eh := rfl
@[simp] theorem State.setBanks_rbH16 (e r : List Sprite) (eh rh : Option Bool) (o : Bool) :
    (s.setBanks e r eh rh o).rbH16 = rh := rfl
@[simp] theorem State.setBanks_overflow (e r : List Sprite) (eh rh : Option Bool) (o : Bool) :
    (s.setBanks e r eh rh o).overflow = o := rfl
@[simp] theorem State.setBanks_zeroHit (e r : List Sprite) (eh rh : Option Bool) (o : Bool) :
    (s.setBanks e r eh rh o).zeroHit = s.zeroHit := rfl
@[simp] theorem State.setBanks_sprTable (e r : List Sprite) (eh rh : Option Bool) (o : Bool) :
    (s.setBanks e r eh rh o).sprTable = s.sprTable := rfl
@[simp] theorem State.setBanks_sprH16 (e r : List Sprite) (eh rh : Option Bool) (o : Bool) :
    (s.setBanks e r eh rh o).sprH16 = s.sprH16 := rfl
@[simp] theorem State.setBanks_showLeft (e r : List Sprite) (eh rh : Option Bool) (o : Bool) :
    (s.setBanks e r eh rh o).showLeft = s.showLeft := rfl
@[simp] theorem State.setBanks_bypass (e r : List Sprite) (eh rh : Option Bool) (o : Bool) :
    (s.setBanks e r eh rh o).bypass = s.bypass := rfl
@[simp] theorem State.setBanks_oam (e r : List Sprite) (eh rh : Option Bool) (o : Bool) :
    (s.setBanks e r eh rh o).oam = s.oam := rfl
@[simp] theorem State.setBanks_bgt (e r : List Sprite) (eh rh : Option Bool) (o : Bool) :
    (s.setBanks e r eh rh o).bgt = s.bgt := rfl
@[simp] theorem State.setBanks_fb (e r : List Sprite) (eh rh : Option Bool) (o : Bool) :
    (s.setBanks e r eh rh o).fb = s.fb := rfl
@[simp] theorem State.setBanks_palEpoch (e r : List Sprite) (eh rh : Option Bool) (o : Bool) :
    (s.setBanks e r eh rh o).palEpoch = s.palEpoch := rfl
@[simp] theorem State.setBanks_rom (e r : List Sprite) (eh rh : Option Bool) (o : Bool) :
    (s.setBanks e r eh rh o).rom = s.rom := rfl
@[simp] theorem State.setBanks_stream (e r : List Sprite) (eh rh : Option Bool) (o : Bool) :
    (s.setBanks e r eh rh o).stream = s.stream := rfl
@[simp] theorem State.setBanks_streamFails (e r : List Sprite) (eh rh : Option Bool) (o : Bool) :
    (s.setBanks e r eh rh o).streamFails = s.streamFails := rfl
@[simp] theorem State.setBanks_ret (e r : List Sprite) (eh rh : Option Bool) (o : Bool) :
    (s.setBanks e r eh rh o).ret = s.ret := rfl
@[simp] theorem State.setBanks_made (e r : List Sprite) (eh rh : Option Bool) (o : Bool) :
    (s.setBanks e r eh rh o).made = s.made := rfl
@[simp] theorem State.setBanks_diags (e r : List Sprite) (eh rh : Option Bool) (o : Bool) :
    (s.setBanks e r eh rh o).diags = s.diags := rfl
@[simp] theorem State.setBanks_fresh (e r : List Sprite) (eh rh : Option Bool) (o : Bool) :
    (s.setBanks e r eh rh o).fresh = s.fresh := rfl
@[simp] theorem State.setBanks_internal (e r : List Sprite) (eh rh : Option Bool) (o : Bool) :
    (s.setBanks e r eh rh o).internal = s.internal := rfl
@[simp] theorem State.setBanks_pending (e r : List Sprite) (eh rh : Option Bool) (o : Bool) :
    (s.setBanks e r eh rh o).pending = s.pending := rfl

/-! ### setRom -/
@[simp] theorem State.setRom_eb (r : Option RomImage) : (s.setRom r).eb = s.eb := rfl
@[simp] theorem State.setRom_rb (r : Option RomImage) : (s.setRom r).rb = s.rb := rfl
@[simp] theorem State.setRom_ebH16 (r : Option RomImage) : (s.setRom r).ebH16 = s.ebH16 := rfl
@[simp] theorem State.setRom_rbH16 (r : Option RomImage) : (s.setRom r).rbH16 = s.rbH16 := rfl
@[simp] theorem State.setRom_overflow (r : Option RomImage) : (s.setRom r).overflow = s.overflow := rfl
@[simp] theorem State.setRom_zeroHit (r : Option RomImage) : (s.setRom r).zeroHit = s.zeroHit := rfl
@[simp] theorem State.setRom_sprTable (r : Option RomImage) : (s.setRom r).sprTable = s.sprTable := rfl
@[simp] theorem State.setRom_sprH16 (r : Option RomImage) : (s.setRom r).sprH16 = s.sprH16 := rfl
@[simp] theorem State.setRom_showLeft (r : Option RomImage) : (s.setRom r).showLeft = s.showLeft := rfl
@[simp] theorem State.setRom_bypass (r : Option RomImage) : (s.setRom r).bypass = s.bypass := rfl
@[simp] theorem State.setRom_oam (r : Option RomImage) : (s.setRom r).oam = s.oam := rfl
@[simp] theorem State.setRom_bgt (r : Option RomImage) : (s.setRom r).bgt = s.bgt := rfl
@[simp] theorem State.setRom_fb (r : Option RomImage) : (s.setRom r).fb = s.fb := rfl
@[simp] theorem State.setRom_palEpoch (r : Option RomImage) : (s.setRom r).palEpoch = s.palEpoch := rfl
@[simp] theorem State.setRom_rom (r : Option RomImage) : (s.setRom r).rom = r := rfl
@[simp] theorem State.setRom_stream (r : Option RomImage) : (s.setRom r).stream = s.stream := rfl
@[simp] theorem State.setRom_streamFails (r : Option RomImage) : (s.setRom r).streamFails = s.streamFails := rfl
@[simp] theorem State.setRom_ret (r : Option RomImage) : (s.setRom r).ret = s.ret := rfl
@[simp] theorem State.setRom_made (r : Option RomImage) : (s.setRom r).made = s.made := rfl
@[simp] theorem State.setRom_diags (r : Option RomImage) : (s.setRom r).diags = s.diags := rfl
@[simp] theorem State.setRom_fresh (r : Option RomImage) : (s.setRom r).fresh = s.fresh := rfl
@[simp] theorem State.setRom_internal (r : Option RomImage) : (s.setRom r).internal = s.internal := rfl
@[simp] theorem State.setRom_pending (r : Option RomImage) : (s.setRom r).pending = s.pending := rfl

/-! ### setStream -/
@[simp] theorem State.setStream_eb (st : Stream) : (s.setStream st).eb = s.eb := rfl
@[simp] theorem State.setStream_rb (st : Stream) : (s.setStream st).rb = s.rb := rfl
@[simp] theorem State.setStream_ebH16 (st : Stream) : (s.setStream st).ebH16 = s.ebH16 := rfl
@[simp] theorem State.setStream_rbH16 (st : Stream) : (s.setStream st).rbH16 = s.rbH16 := rfl
@[simp] theorem State.setStream_overflow (st : Stream) : (s.setStream st).overflow = s.overflow := rfl
@[simp] theorem State.setStream_zeroHit (st : Stream) : (s.setStream st).zeroHit = s.zeroHit := rfl
@[simp] theorem State.setStream_sprTable (st : Stream) : (s.setStream st).sprTable = s.sprTable := rfl
@[simp] theorem State.setStream_sprH16 (st : Stream) : (s.setStream st).sprH16 = s.sprH16 := rfl
@[simp] theorem State.setStream_showLeft (st : Stream) : (s.setStream st).showLeft = s.showLeft := rfl
@[simp] theorem State.setStream_bypass (st : Stream) : (s.setStream st).bypass = s.bypass := rfl
@[simp] theorem State.setStream_oam (st : Stream) : (s.setStream st).oam = s.oam := rfl
@[simp] theorem State.setStream_bgt (st : Stream) : (s.setStream st).bgt = s.bgt := rfl
@[simp] theorem State.setStream_fb (st : Stream) : (s.setStream st).fb = s.fb := rfl
@[simp] theorem State.setStream_palEpoch (st : Stream) : (s.setStream st).palEpoch = s.palEpoch := rfl
@[simp] theorem State.setStream_rom (st : Stream) : (s.setStream st).rom = s.rom := rfl
@[simp] theorem State.setStream_stream (st : Stream) : (s.setStream st).stream = st := rfl
@[simp] theorem State.setStream_streamFails (st : Stream) : (s.setStream st).streamFails = s.streamFails := rfl
@[simp] theorem State.setStream_ret (st : Stream) : (s.setStream st).ret = s.ret := rfl
@[simp] theorem State.setStream_made (st : Stream) : (s.setStream st).made = s.made := rfl
@[simp] theorem State.setStream_diags (st : Stream) : (s.setStream st).diags = s.diags := rfl
@[simp] theorem State.setStream_fresh (st : Stream) : (s.setStream st).fresh = s.fresh := rfl
@[simp] theorem State.setStream_internal (st : Stream) : (s.setStream st).internal = s.internal := rfl
@[simp] theorem State.setStream_pending (st : Stream) : (s.setStream st).pending = s.pending := rfl

/-! ### draw -/
@[simp] theorem State.draw_eb : (s.draw).eb = s.eb := rfl
@[simp] theorem State.draw_rb : (s.draw).rb = s.rb := rfl
@[simp] theorem State.draw_ebH16 : (s.draw).ebH16 = s.ebH16 := rfl
@[simp] theorem State.draw_rbH16 : (s.draw).rbH16 = s.rbH16 := rfl
@[simp] theorem State.draw_overflow : (s.draw).overflow = s.overflow := rfl
@[simp] theorem State.draw_zeroHit : (s.draw).zeroHit = s.zeroHit := rfl
@[simp] theorem State.draw_sprTable : (s.draw).sprTable = s.sprTable := rfl
@[simp] theorem State.draw_sprH16 : (s.draw).sprH16 = s.sprH16 := rfl
@[simp] theorem State.draw_showLeft : (s.draw).showLeft = s.showLeft := rfl
@[simp] theorem State.draw_bypass : (s.draw).bypass = s.bypass := rfl
@[simp] theorem State.draw_oam : (s.draw).oam = s.oam := rfl
@[simp] theorem State.draw_bgt : (s.draw).bgt = s.bgt := rfl
@[simp] theorem State.draw_fb : (s.draw).fb = s.fb := rfl
@[simp] theorem State.draw_palEpoch : (s.draw).palEpoch = s.palEpoch := rfl
@[simp] theorem State.draw_rom : (s.draw).rom = s.rom := rfl
@[simp] theorem State.draw_stream : (s.draw).stream = s.stream := rfl
@[simp] theorem State.draw_streamFails : (s.draw).streamFails = s.streamFails := rfl
@[simp] theorem State.draw_ret : (s.draw).ret = s.ret := rfl
@[simp] theorem State.draw_made : (s.draw).made = s.made := rfl
@[simp] theorem State.draw_diags : (s.draw).diags = s.diags := rfl
@[simp] theorem State.draw_fresh : (s.draw).fresh = s.fresh + 1 := rfl
@[simp] theorem State.draw_internal : (s.draw).internal = s.internal := rfl
@[simp] theorem State.draw_pending : (s.draw).pending = s.pending := rfl

/-! ### setPending -/
@[simp] theorem State.setPending_eb (p : List Event) : (s.setPending p).eb = s.eb := rfl
@[simp] theorem State.setPending_rb (p : List Event) : (s.setPending p).rb = s.rb := rfl
@[simp] theorem State.setPending_ebH16 (p : List Event) : (s.setPending p).ebH16 = s.ebH16 := rfl
@[simp] theorem State.setPending_rbH16 (p : List Event) : (s.setPending p).rbH16 = s.rbH16 := rfl
@[simp] theorem State.setPending_overflow (p : List Event) : (s.setPending p).overflow = s.overflow := rfl
@[simp] theorem State.setPending_zeroHit (p : List Event) : (s.setPending p).zeroHit = s.zeroHit := rfl
@[simp] theorem State.setPending_sprTable (p : List Event) : (s.setPending p).sprTable = s.sprTable := rfl
@[simp] theorem State.setPending_sprH16 (p : List Event) : (s.setPending p).sprH16 = s.sprH16 := rfl
@[simp] theorem State.setPending_showLeft (p : List Event) : (s.setPending p).showLeft = s.showLeft := rfl
@[simp] theorem State.setPending_bypass (p : List Event) : (s.setPending p).bypass = s.bypass := rfl
@[simp] theorem State.setPending_oam (p : List Event) : (s.setPending p).oam = s.oam := rfl
@[simp] theorem State.setPending_bgt (p : List Event) : (s.setPending p).bgt = s.bgt := rfl
@[simp] theorem State.setPending_fb (p : List Event) : (s.setPending p).fb = s.fb := rfl
@[simp] theorem State.setPending_palEpoch (p : List Event) : (s.setPending p).palEpoch = s.palEpoch := rfl
@[simp] theorem State.setPending_rom (p : List Event) : (s.setPending p).rom = s.rom := rfl
@[simp] theorem State.setPending_stream (p : List Event) : (s.setPending p).stream = s.stream := rfl
@[simp] theorem State.setPending_streamFails (p : List Event) : (s.setPending p).streamFails = s.streamFails := rfl
@[simp] theorem State.setPending_ret (p : List Event) : (s.setPending p).ret = s.ret := rfl
@[simp] theorem State.setPending_made (p : List Event) : (s.setPending p).made = s.made := rfl
@[simp] theorem State.setPending_diags (p : List Event) : (s.setPending p).diags = s.diags := rfl
@[simp] theorem State.setPending_fresh (p : List Event) : (s.setPending p).fresh = s.fresh := rfl
@[simp] theorem State.setPending_internal (p : List Event) : (s.setPending p).internal = s.internal := rfl
@[simp] theorem State.setPending_pending (p : List Event) : (s.setPending p).pending = p := rfl

/-! ### setFlag -/
@[simp] theorem State.setFlag_eb (f : Flag) : (s.setFlag f).eb = s.eb := by cases f <;> rfl
@[simp] theorem State.setFlag_rb (f : Flag) : (s.setFlag f).rb = s.rb := by cases f <;> rfl
@[simp] theorem State.setFlag_ebH16 (f : Flag) : (s.setFlag f).ebH16 = s.ebH16 := by cases f <;> rfl
@[simp] theorem State.setFlag_rbH16 (f : Flag) : (s.setFlag f).rbH16 = s.rbH16 := by cases f <;> rfl
@[simp] theorem State.setFlag_made (f : Flag) : (s.setFlag f).made = s.made := by cases f <;> rfl
@[simp] theorem State.setFlag_internal (f : Flag) : (s.setFlag f).internal = s.internal := by cases f <;> rfl
@[simp] theorem State.setFlag_overflow_same : (s.setFlag .overflow).overflow = true := rfl
@[simp] theorem State.setFlag_overflow_other : (s.setFlag .zeroHit).overflow = s.overflow := rfl
@[simp] theorem State.setFlag_zeroHit_same : (s.setFlag .zeroHit).zeroHit = true := rfl
@[simp] theorem State.setFlag_zeroHit_other : (s.setFlag .overflow).zeroHit = s.zeroHit := rfl
@[simp] theorem State.setFlag_sprTable (f : Flag) : (s.setFlag f).sprTable = s.sprTable := by cases f <;> rfl
@[simp] theorem State.setFlag_sprH16 (f : Flag) : (s.setFlag f).sprH16 = s.sprH16 := by cases f <;> rfl
@[simp] theorem State.setFlag_showLeft (f : Flag) : (s.setFlag f).showLeft = s.showLeft := by cases f <;> rfl
@[simp] theorem State.setFlag_bypass (f : Flag) : (s.setFlag f).bypass = s.bypass := by cases f <;> rfl
@[simp] theorem State.setFlag_oam (f : Flag) : (s.setFlag f).oam = s.oam := by cases f <;> rfl
@[simp] theorem State.setFlag_bgt (f : Flag) : (s.setFlag f).bgt = s.bgt := by cases f <;> rfl
@[simp] theorem State.setFlag_fb (f : Flag) : (s.setFlag f).fb = s.fb := by cases f <;> rfl
@[simp] theorem State.setFlag_palEpoch (f : Flag) : (s.setFlag f).palEpoch = s.palEpoch := by cases f <;> rfl
@[simp] theorem State.setFlag_rom (f : Flag) : (s.setFlag f).rom = s.rom := by cases f <;> rfl
@[simp] theorem State.setFlag_stream (f : Flag) : (s.setFlag f).stream = s.stream := by cases f <;> rfl
@[simp] theorem State.setFlag_streamFails (f : Flag) : (s.setFlag f).streamFails = s.streamFails := by cases f <;> rfl
@[simp] theorem State.setFlag_ret (f : Flag) : (s.setFlag f).ret = s.ret := by cases f <;> rfl
@[simp] theorem State.setFlag_diags (f : Flag) : (s.setFlag f).diags = s.diags := by cases f <;> rfl
@[simp] theorem State.setFlag_fresh (f : Flag) : (s.setFlag f).fresh = s.fresh := by cases f <;> rfl
@[simp] theorem State.setFlag_pending (f : Flag) : (s.setFlag f).pending = s.pending := by cases f <;> rfl

/-! ### clearFlag -/
@[simp] theorem State.clearFlag_eb (f : Flag) : (s.clearFlag f).eb = s.eb := by cases f <;> rfl
@[simp] theorem State.clearFlag_rb (f : Flag) : (s.clearFlag f).rb = s.rb := by cases f <;> rfl
@[simp] theorem State.clearFlag_ebH16 (f : Flag) : (s.clearFlag f).ebH16 = s.ebH16 := by cases f <;> rfl
@[simp] theorem State.clearFlag_rbH16 (f : Flag) : (s.clearFlag f).rbH16 = s.rbH16 := by cases f <;> rfl
@[simp] theorem State.clearFlag_made (f : Flag) : (s.clearFlag f).made = s.made := by cases f <;> rfl
@[simp] theorem State.clearFlag_internal (f : Flag) : (s.clearFlag f).internal = s.internal := by cases f <;> rfl
@[simp] theorem State.clearFlag_overflow_same : (s.clearFlag .overflow).overflow = false := rfl
@[simp] theorem State.clearFlag_overflow_other : (s.clearFlag .zeroHit).overflow = s.overflow := rfl
@[simp] theorem State.clearFlag_zeroHit_same : (s.clearFlag .zeroHit).zeroHit = false := rfl
@[simp] theorem State.clearFlag_zeroHit_other : (s.clearFlag .overflow).zeroHit = s.zeroHit := rfl
@[simp] theorem State.clearFlag_sprTable (f : Flag) : (s.clearFlag f).sprTable = s.sprTable := by cases f <;> rfl
@[simp] theorem State.clearFlag_sprH16 (f : Flag) : (s.clearFlag f).sprH16 = s.sprH16 := by cases f <;> rfl
@[simp] theorem State.clearFlag_showLeft (f : Flag) : (s.clearFlag f).showLeft = s.showLeft := by cases f <;> rfl
@[simp] theorem State.clearFlag_bypass (f : Flag) : (s.clearFlag f).bypass = s.bypass := by cases f <;> rfl
@[simp] theorem State.clearFlag_oam (f : Flag) : (s.clearFlag f).oam = s.oam := by cases f <;> rfl
@[simp] theorem State.clearFlag_bgt (f : Flag) : (s.clearFlag f).bgt = s.bgt := by cases f <;> rfl
@[simp] theorem State.clearFlag_fb (f : Flag) : (s.clearFlag f).fb = s.fb := by cases f <;> rfl
@[simp] theorem State.clearFlag_palEpoch (f : Flag) : (s.clearFlag f).palEpoch = s.palEpoch := by cases f <;> rfl
@[simp] theorem State.clearFlag_rom (f : Flag) : (s.clearFlag f).rom = s.rom := by cases f <;> rfl
@[simp] theorem State.clearFlag_stream (f : Flag) : (s.clearFlag f).stream = s.stream := by cases f <;> rfl
@[simp] theorem State.clearFlag_streamFails (f : Flag) :
    (s.clearFlag f).streamFails = s.streamFails := by cases f <;> rfl
@[simp] theorem State.clearFlag_ret (f : Flag) : (s.clearFlag f).ret = s.ret := by cases f <;> rfl
@[simp] theorem State.clearFlag_diags (f : Flag) : (s.clearFlag f).diags = s.diags := by cases f <;> rfl
@[simp] theorem State.clearFlag_fresh (f : Flag) : (s.clearFlag f).fresh = s.fresh := by cases f <;> rfl
@[simp] theorem State.clearFlag_pending (f : Flag) : (s.clearFlag f).pending = s.pending := by cases f <;> rfl

/-! ### resetBlock -/
@[simp] theorem resetBlock_eb : (resetBlock s).eb = [] := rfl
@[simp] theorem resetBlock_rb : (resetBlock s).rb = [] := rfl
@[simp] theorem resetBlock_ebH16 : (resetBlock s).ebH16 = none := rfl
@[simp] theorem resetBlock_rbH16 : (resetBlock s).rbH16 = none := rfl
@[simp] theorem resetBlock_overflow : (resetBlock s).overflow = s.overflow := rfl
@[simp] theorem resetBlock_zeroHit : (resetBlock s).zeroHit = s.zeroHit := rfl
@[simp] theorem resetBlock_sprTable : (resetBlock s).sprTable = s.sprTable := rfl
@[simp] theorem resetBlock_sprH16 : (resetBlock s).sprH16 = s.sprH16 := rfl
@[simp] theorem resetBlock_showLeft : (resetBlock s).showLeft = s.showLeft := rfl
@[simp] theorem resetBlock_bypass : (resetBlock s).bypass = s.bypass := rfl
@[simp] theorem resetBlock_oam : (resetBlock s).oam = s.oam := rfl
@[simp] theorem resetBlock_bgt : (resetBlock s).bgt = s.bgt := rfl
@[simp] theorem resetBlock_fb : (resetBlock s).fb = s.fb := rfl
@[simp] theorem resetBlock_palEpoch : (resetBlock s).palEpoch = s.palEpoch := rfl
@[simp] theorem resetBlock_rom : (resetBlock s).rom = s.rom := rfl
@[simp] theorem resetBlock_stream : (resetBlock s).stream = s.stream := rfl
@[simp] theorem resetBlock_streamFails : (resetBlock s).streamFails = s.streamFails := rfl
@[simp] theorem resetBlock_ret : (resetBlock s).ret = s.ret := rfl
@[simp] theorem resetBlock_made : (resetBlock s).made = s.made := rfl
@[simp] theorem resetBlock_diags : (resetBlock s).diags = s.diags := rfl
@[simp] theorem resetBlock_fresh : (resetBlock s).fresh = s.fresh := rfl
@[simp] theorem resetBlock_internal : (resetBlock s).internal = s.internal := rfl
@[simp] theorem resetBlock_pending : (resetBlock s).pending = s.pending := rfl

/-! ### setMade -/
@[simp] theorem State.setMade_eb (p : Produced) : (s.setMade p).eb = s.eb := rfl
@[simp] theorem State.setMade_rb (p : Produced) : (s.setMade p).rb = s.rb := rfl
@[simp] theorem State.setMade_ebH16 (p : Produced) : (s.setMade p).ebH16 = s.ebH16 := rfl
@[simp] theorem State.setMade_rbH16 (p : Produced) : (s.setMade p).rbH16 = s.rbH16 := rfl
@[simp] theorem State.setMade_overflow (p : Produced) : (s.setMade p).overflow = s.overflow := rfl
@[simp] theorem State.setMade_zeroHit (p : Produced) : (s.setMade p).zeroHit = s.zeroHit := rfl
@[simp] theorem State.setMade_sprTable (p : Produced) : (s.setMade p).sprTable = s.sprTable := rfl
@[simp] theorem State.setMade_sprH16 (p : Produced) : (s.setMade p).sprH16 = s.sprH16 := rfl
@[simp] theorem State.setMade_showLeft (p : Produced) : (s.setMade p).showLeft = s.showLeft := rfl
@[simp] theorem State.setMade_bypass (p : Produced) : (s.setMade p).bypass = s.bypass := rfl
@[simp] theorem State.setMade_oam (p : Produced) : (s.setMade p).oam = s.oam := rfl
@[simp] theorem State.setMade_bgt (p : Produced) : (s.setMade p).bgt = s.bgt := rfl
@[simp] theorem State.setMade_fb (p : Produced) : (s.setMade p).fb = s.fb := rfl
@[simp] theorem State.setMade_palEpoch (p : Produced) : (s.setMade p).palEpoch = s.palEpoch := rfl
@[simp] theorem State.setMade_rom (p : Produced) : (s.setMade p).rom = s.rom := rfl
@[simp] theorem State.setMade_stream (p : Produced) : (s.setMade p).stream = s.stream := rfl
@[simp] theorem State.setMade_streamFails (p : Produced) : (s.setMade p).streamFails = s.streamFails := rfl
@[simp] theorem State.setMade_ret (p : Produced) : (s.setMade p).ret = s.ret := rfl
@[simp] theorem State.setMade_made (p : Produced) : (s.setMade p).made = p := rfl
@[simp] theorem State.setMade_diags (p : Produced) : (s.setMade p).diags = s.diags := rfl
@[simp] theorem State.setMade_fresh (p : Produced) : (s.setMade p).fresh = s.fresh := rfl
@[simp] theorem State.setMade_internal (p : Produced) : (s.setMade p).internal = s.internal := rfl
@[simp] theorem State.setMade_pending (p : Produced) : (s.setMade p).pending = s.pending := rfl

/-! ### setInternal -/
@[simp] theorem State.setInternal_eb (i : Option InternalOp) : (s.setInternal i).eb = s.eb := rfl
@[simp] theorem State.setInternal_rb (i : Option InternalOp) : (s.setInternal i).rb = s.rb := rfl
@[simp] theorem State.setInternal_ebH16 (i : Option InternalOp) : (s.setInternal i).ebH16 = s.ebH16 := rfl
@[simp] theorem State.setInternal_rbH16 (i : Option InternalOp) : (s.setInternal i).rbH16 = s.rbH16 := rfl
@[simp] theorem State.setInternal_overflow (i : Option InternalOp) : (s.setInternal i).overflow = s.overflow := rfl
@[simp] theorem State.setInternal_zeroHit (i : Option InternalOp) : (s.setInternal i).zeroHit = s.zeroHit := rfl
@[simp] theorem State.setInternal_sprTable (i : Option InternalOp) : (s.setInternal i).sprTable = s.sprTable := rfl
@[simp] theorem State.setInternal_sprH16 (i : Option InternalOp) : (s.setInternal i).sprH16 = s.sprH16 := rfl
@[simp] theorem State.setInternal_showLeft (i : Option InternalOp) : (s.setInternal i).showLeft = s.showLeft := rfl
@[simp] theorem State.setInternal_bypass (i : Option InternalOp) : (s.setInternal i).bypass = s.bypass := rfl
@[simp] theorem State.setInternal_oam (i : Option InternalOp) : (s.setInternal i).oam = s.oam := rfl
@[simp] theorem State.setInternal_bgt (i : Option InternalOp) : (s.setInternal i).bgt = s.bgt := rfl
@[simp] theorem State.setInternal_fb (i : Option InternalOp) : (s.setInternal i).fb = s.fb := rfl
@[simp] theorem State.setInternal_palEpoch (i : Option InternalOp) : (s.setInternal i).palEpoch = s.palEpoch := rfl
@[simp] theorem State.setInternal_rom (i : Option InternalOp) : (s.setInternal i).rom = s.rom := rfl
@[simp] theorem State.setInternal_stream (i : Option InternalOp) : (s.setInternal i).stream = s.stream := rfl
@[simp] theorem State.setInternal_streamFails (i : Option InternalOp) :
    (s.setInternal i).streamFails = s.streamFails := rfl
@[simp] theorem State.setInternal_ret (i : Option InternalOp) : (s.setInternal i).ret = s.ret := rfl
@[simp] theorem State.setInternal_made (i : Option InternalOp) : (s.setInternal i).made = s.made := rfl
@[simp] theorem State.setInternal_diags (i : Option InternalOp) : (s.setInternal i).diags = s.diags := rfl
@[simp] theorem State.setInternal_fresh (i : Option InternalOp) : (s.setInternal i).fresh = s.fresh := rfl
@[simp] theorem State.setInternal_internal (i : Option InternalOp) : (s.setInternal i).internal = i := rfl
@[simp] theorem State.setInternal_pending (i : Option InternalOp) : (s.setInternal i).pending = s.pending := rfl

end Sys2Proof.Machine
end

