-- ==== Sys2Proof/Laws/TileDecoder.lean ====
section
/-! SUPPORT. The laws of grids: the elements of a grid built row by row, its shape, the elements of a flip. -/

namespace Sys2Proof.Machine

open Sys2Proof

/-- The elements of a grid that is given element by element. -/
theorem gridPixel_build (f : Nat → Nat → Pixel) {h w c r : Nat} (hc : c < w) (hr : r < h) :
    gridPixel ((List.range h).map fun r => (List.range w).map fun c => f c r) c r = f c r := by
  simp [gridPixel, List.getD_eq_getElem?_getD, hr, hc]

/-- A grid that is given element by element has the shape it is given. -/
theorem build_wf (f : Nat → Nat → Pixel) (h : Nat) :
    gridWf h ((List.range h).map fun r => (List.range 8).map fun c => f c r) := by
  refine ⟨by simp, fun row hrow => ?_⟩
  obtain ⟨r, -, rfl⟩ := List.mem_map.1 hrow
  simp

/-- Two grids of one shape with the same elements are the same grid. -/
theorem grid_ext {h : Nat} {g g' : Grid} (hg : gridWf h g) (hg' : gridWf h g')
    (he : ∀ c < 8, ∀ r < h, gridPixel g c r = gridPixel g' c r) : g = g' := by
  refine List.ext_getElem (hg.1.trans hg'.1.symm) fun r h1 h2 => ?_
  have hl := hg.2 _ (List.getElem_mem h1)
  have hl' := hg'.2 _ (List.getElem_mem h2)
  refine List.ext_getElem (hl.trans hl'.symm) fun c h3 h4 => ?_
  have := he c (by omega) r (by rw [← hg.1]; exact h1)
  simpa [gridPixel, List.getD_eq_getElem?_getD, h1, h2, h3, h4] using this

theorem decodeGrid_wf (h16 tbl : Bool) (img : RomImage) (tile : Byte) :
    gridWf (spriteHeight h16) (decodeGrid h16 tbl img tile) :=
  build_wf (fun c r => unpack (chrFetch img (patternAddr h16 tbl tile r))
    (chrFetch img (patternAddr h16 tbl tile r + 8)) c) _

theorem decodeGrid_pixel (h16 tbl : Bool) (img : RomImage) (tile : Byte) {c r : Nat} (hc : c < 8)
    (hr : r < spriteHeight h16) :
    gridPixel (decodeGrid h16 tbl img tile) c r =
      unpack (chrFetch img (patternAddr h16 tbl tile r)) (chrFetch img (patternAddr h16 tbl tile r + 8)) c :=
  gridPixel_build (fun c r => unpack (chrFetch img (patternAddr h16 tbl tile r))
    (chrFetch img (patternAddr h16 tbl tile r + 8)) c) hc hr

theorem flipGrid_wf (g : Grid) (fh fv : Bool) (h : Nat) : gridWf h (flipGrid g fh fv h) :=
  build_wf (fun c r => gridPixel g (if fh then 7 - c else c) (if fv then h - 1 - r else r)) _

theorem flipGrid_pixel (g : Grid) (fh fv : Bool) {h c r : Nat} (hc : c < 8) (hr : r < h) :
    gridPixel (flipGrid g fh fv h) c r =
      gridPixel g (if fh then 7 - c else c) (if fv then h - 1 - r else r) :=
  gridPixel_build (fun c r => gridPixel g (if fh then 7 - c else c) (if fv then h - 1 - r else r)) hc hr

theorem spriteHeight_pos (h16 : Bool) : 0 < spriteHeight h16 := by cases h16 <;> decide

/-- The row is always one of the grid's (R162). -/
theorem spriteRow_lt (s : Nat) (y : Byte) {h : Nat} (hh : 0 < h) : spriteRow s y h < h := by
  unfold spriteRow
  have h0 : (0 : Int) ≤ ((s : Int) - (y.toNat : Int)) % (h : Int) := Int.emod_nonneg _ (by omega)
  have h1 : ((s : Int) - (y.toNat : Int)) % (h : Int) < (h : Int) := Int.emod_lt_of_pos _ (by omega)
  omega

end Sys2Proof.Machine
end

