-- ==== Sys2Proof/Laws/Compositor.lean ====
section
/-! SUPPORT. What one column and one record of RENDER can do. -/

namespace Sys2Proof.Machine

open Sys2Proof

/-- A state that differs from another only in FB and ZEROHIT, the outputs of RENDER (R160). -/
def RenderFrame (s t : State) : Prop :=
  t = { s with fb := t.fb, zeroHit := t.zeroHit }

theorem RenderFrame.refl (s : State) : RenderFrame s s := rfl

theorem RenderFrame.trans {s t u : State} (h : RenderFrame s t) (h' : RenderFrame t u) : RenderFrame s u := by
  unfold RenderFrame at *
  rw [h] at h'
  simpa using h'

theorem RenderFrame.bgt {s t : State} (h : RenderFrame s t) : t.bgt = s.bgt := by rw [h]
theorem RenderFrame.palEpoch {s t : State} (h : RenderFrame s t) : t.palEpoch = s.palEpoch := by rw [h]

/-- Whether a column passes tests 2 to 4 of R174. -/
def columnShown (left : Bool) (sp : Sprite) (g : Grid) (row c : Nat) : Bool :=
  frameX sp.x c ≤ 255 && (left || 8 ≤ frameX sp.x c) && gridPixel g c row != 0

/-- Everything one column can do. -/
theorem renderColumn_cases (sl : Nat) (left : Bool) (sp : Sprite) (g : Grid) (row : Nat) (s : State) (c : Nat) :
    renderColumn sl left sp g row s c =
      { s with
        fb := if columnShown left sp g row c && !(sp.behind && bgtOpaque s.bgt (frameX sp.x c) sl) then
                fbWrite s.fb (frameX sp.x c) sl (spriteColour s.palEpoch sp.pal (gridPixel g c row)) else s.fb
        zeroHit := s.zeroHit ||
          (columnShown left sp g row c && (decide (sp.idx.val = 0) && bgtOpaque s.bgt (frameX sp.x c) sl)) } := by
  unfold renderColumn columnShown
  split
  · next h => simp [Nat.not_le.2 h]
  · next h1 =>
    split
    · next h => simp at h; simp [h.1, Nat.not_le.2 h.2]
    · next h2 =>
      split
      · next h => simp [h]
      · next h3 =>
        have h2' : (left || decide (8 ≤ frameX sp.x c)) = true := by
          cases left <;> simp_all
        have h1' : frameX sp.x c ≤ 255 := by omega
        simp only [h1', h2', decide_true, Bool.true_and]
        have h3' : (gridPixel g c row != 0) = true := by simpa using h3
        simp only [h3', Bool.true_and]
        by_cases hi : sp.idx.val = 0 <;> cases hb : bgtOpaque s.bgt (frameX sp.x c) sl <;> cases hbe : sp.behind <;>
          simp [hi, State.putFb, State.setFlag]

theorem renderColumn_frame (sl : Nat) (left : Bool) (sp : Sprite) (g : Grid) (row : Nat) (s : State) (c : Nat) :
    RenderFrame s (renderColumn sl left sp g row s c) := by
  rw [renderColumn_cases]; rfl

/-- A fold of steps that each change only FB and ZEROHIT changes only these. -/
theorem foldl_frame {β : Type} (f : State → β → State) (hf : ∀ s b, RenderFrame s (f s b)) (l : List β) (s : State) :
    RenderFrame s (l.foldl f s) := by
  induction l generalizing s with
  | nil => exact .refl s
  | cons b l ih => exact (hf s b).trans (ih _)

theorem renderSprite_frame (sl : Nat) (left : Bool) (h : Nat) (s : State) (sp : Sprite) :
    RenderFrame s (renderSprite sl left h s sp) :=
  foldl_frame _ (fun s c => renderColumn_frame sl left sp _ _ s c) _ s

theorem renderBank_frame (sl : Nat) (left : Bool) (h : Nat) (s : State) : RenderFrame s (renderBank sl left h s) :=
  foldl_frame _ (fun s sp => renderSprite_frame sl left h s sp) _ s

/-- The columns of a record that a fold visits, whatever their number: an element of FB at column `x` of the row takes
the record's colour when one of the visited columns falls on it and is drawn, and otherwise stays. -/
theorem foldl_renderColumn_fb (sl : Nat) (left : Bool) (sp : Sprite) (g : Grid) (row : Nat) (cs : List Nat) (s : State)
    {x : Nat} (hx : x < 256) :
    fbRead (cs.foldl (renderColumn sl left sp g row) s).fb x sl =
      if sp.x.toNat ≤ x ∧ x - sp.x.toNat ∈ cs ∧ columnShown left sp g row (x - sp.x.toNat) ∧
          !(sp.behind && bgtOpaque s.bgt x sl) then
        some (spriteColour s.palEpoch sp.pal (gridPixel g (x - sp.x.toNat) row))
      else fbRead s.fb x sl := by
  induction cs generalizing s with
  | nil => simp
  | cons c cs ih =>
    have hf := renderColumn_frame sl left sp g row s c
    rw [List.foldl_cons, ih, hf.bgt, hf.palEpoch]
    by_cases hcs : sp.x.toNat ≤ x ∧ x - sp.x.toNat ∈ cs ∧ columnShown left sp g row (x - sp.x.toNat) ∧
        !(sp.behind && bgtOpaque s.bgt x sl)
    · rw [if_pos hcs, if_pos ⟨hcs.1, List.mem_cons_of_mem _ hcs.2.1, hcs.2.2⟩]
    · rw [if_neg hcs, renderColumn_cases]
      by_cases hxc : frameX sp.x c = x
      · have hc : c = x - sp.x.toNat := by unfold frameX at hxc; omega
        have hle : sp.x.toNat ≤ x := by unfold frameX at hxc; omega
        subst hc
        simp only [hxc]
        by_cases hd : columnShown left sp g row (x - sp.x.toNat) && !(sp.behind && bgtOpaque s.bgt x sl)
        · rw [if_pos hd, fbRead_write_same, if_pos]
          simp only [Bool.and_eq_true] at hd
          exact ⟨hle, List.mem_cons_self .., hd⟩
        · rw [if_neg hd, if_neg]
          rintro ⟨-, -, h⟩
          exact hd (by simp only [Bool.and_eq_true]; exact h)
      · have hne : ¬(sp.x.toNat ≤ x ∧ x - sp.x.toNat ∈ c :: cs ∧ columnShown left sp g row (x - sp.x.toNat) ∧
            !(sp.behind && bgtOpaque s.bgt x sl)) := by
          rintro ⟨h1, h2, h3⟩
          rcases List.mem_cons.1 h2 with h | h
          · exact hxc (by unfold frameX; omega)
          · exact hcs ⟨h1, h, h3⟩
        rw [if_neg hne]
        split
        · next hd =>
          have h255 : frameX sp.x c ≤ 255 := by
            simp only [columnShown, Bool.and_eq_true, decide_eq_true_eq] at hd
            exact hd.1.1.1
          exact fbRead_write_other _ _ (by omega) hx (fun h => hxc h.1.symm)
        · rfl

/-- Rows other than the scanline's are left alone. -/
theorem renderColumn_other_row (sl : Nat) (left : Bool) (sp : Sprite) (g : Grid) (row : Nat) (s : State) (c : Nat)
    {x y : Nat} (hx : x < 256) (hy : y ≠ sl) :
    fbRead (renderColumn sl left sp g row s c).fb x y = fbRead s.fb x y := by
  rw [renderColumn_cases]
  simp only
  split
  · next hd =>
    have h255 : frameX sp.x c ≤ 255 := by
      simp only [columnShown, Bool.and_eq_true, decide_eq_true_eq] at hd
      exact hd.1.1.1
    exact fbRead_write_other _ _ (by omega) hx (fun h => hy h.2)
  · rfl

/-- The zero-hit flag after the visited columns of a record. -/
theorem foldl_renderColumn_zeroHit (sl : Nat) (left : Bool) (sp : Sprite) (g : Grid) (row : Nat) (cs : List Nat)
    (s : State) :
    (cs.foldl (renderColumn sl left sp g row) s).zeroHit =
      (s.zeroHit || cs.any fun c =>
        columnShown left sp g row c && (decide (sp.idx.val = 0) && bgtOpaque s.bgt (frameX sp.x c) sl)) := by
  induction cs generalizing s with
  | nil => simp
  | cons c cs ih =>
    rw [List.foldl_cons, ih, (renderColumn_frame sl left sp g row s c).bgt, renderColumn_cases]
    simp [Bool.or_assoc]

/-- RENDER's check of the heights as a proposition. -/
theorem heightAgrees_iff (s : State) : heightAgrees s = true ↔ heightsAgree s := by
  cases h : s.rbH16 <;> simp [heightAgrees, heightsAgree, h]

/-- RENDER's check of the background as a proposition. -/
theorem backgroundReady_iff (s : State) (y : Nat) : backgroundReady s y = true ↔ backgroundDone s y := by
  simp [backgroundReady, backgroundDone, bgtRowComplete]

/-- Everything RENDER can answer while the mapper holds an image. -/
theorem execRender_cases {s : State} {img : RomImage} (h : s.rom = some img) (sl : Scanline) :
    (240 ≤ sl.toNat ∧ execRender sl s = .next s) ∨
    (sl.toNat < 240 ∧ ¬heightsAgree s ∧ execRender sl s = .refused .heightMismatch) ∨
    (sl.toNat < 240 ∧ heightsAgree s ∧ ¬backgroundDone s sl.toNat ∧
      execRender sl s = .refused (.rowNotComplete sl)) ∨
    (sl.toNat < 240 ∧ heightsAgree s ∧ backgroundDone s sl.toNat ∧
      execRender sl s = .next (renderBank sl.toNat s.showLeft (spriteHeight s.sprH16) s)) := by
  rw [← heightAgrees_iff, ← backgroundReady_iff]
  unfold execRender
  rw [withImage_some h]
  by_cases hs : 240 ≤ sl.toNat
  · exact .inl ⟨hs, if_pos hs⟩
  · rw [if_neg hs]
    cases heightAgrees s <;> cases backgroundReady s sl.toNat <;> simp <;> omega

/-- RENDER of a display row when the host has kept its duties. -/
theorem execRender_next {s : State} {img : RomImage} (h : s.rom = some img) {sl : Scanline} (hs : sl.toNat < 240)
    (hh : heightsAgree s) (hb : backgroundDone s sl.toNat) :
    exec (.render sl) s = .next (renderBank sl.toNat s.showLeft (spriteHeight s.sprH16) s) := by
  rcases execRender_cases h sl with ⟨h1, -⟩ | ⟨-, h1, -⟩ | ⟨-, -, h1, -⟩ | ⟨-, -, -, h1⟩
  · omega
  · exact absurd hh h1
  · exact absurd hb h1
  · exact h1

end Sys2Proof.Machine
end

