-- ==== Sys2Proof/Laws/Evaluator.lean ====
section
/-! SUPPORT. What the scan of EVAL can do, in one lemma. -/

namespace Sys2Proof.Machine

open Sys2Proof

/-- The match test as a proposition. -/
theorem slotMatches_iff (h16 : Bool) (oam : Memory) (t : Nat) (n : Slot) :
    slotMatches h16 oam t n = true ↔
      (oamRead oam (4 * n.val)).toNat ≤ t ∧ t < (oamRead oam (4 * n.val)).toNat + spriteHeight h16 := by
  simp only [slotMatches, Bool.and_eq_true, decide_eq_true_eq]

/-- The scan appends the records of the matching slots, all of them with bypass and else as many as there are places
left, and sets the flag exactly when the count passes from 8 to 9. -/
theorem scan_spec (isMatch : Slot → Bool) (dec : Slot → Sprite) (byp : Bool) (ns : List Slot) (m : Nat)
    (bank : List Sprite) (ovf : Bool) (hm : byp = true ∨ m ≤ 8) :
    scan isMatch dec byp ns m bank ovf =
      (bank ++ ((if byp then ns.filter isMatch else (ns.filter isMatch).take (8 - m)).map dec),
       ovf || (decide (m ≤ 8) && decide (9 ≤ m + (ns.filter isMatch).length))) := by
  induction ns generalizing m bank ovf with
  | nil => cases byp <;> simp [scan]; all_goals (intros; omega)
  | cons n ns ih =>
    by_cases hn : isMatch n = true
    · by_cases h8 : m + 1 ≤ 8
      · simp only [scan, hn, if_true, h8]
        rw [ih _ _ _ (.inr h8)]
        have h1 : 8 - m = (8 - (m + 1)) + 1 := by omega
        have h2 : m ≤ 8 := by omega
        have h3 : ∀ k, m + 1 + k = m + (k + 1) := by omega
        have h4 : m < 8 := by omega
        cases byp <;> simp [hn, h1, h2, h3, h4]
      · simp only [scan, hn, if_true, h8, if_false]
        cases byp with
        | false =>
          have : m = 8 := by rcases hm with h | h <;> simp_all; omega
          subst this
          simp [hn, overflowAfterMatch]
          exact .inr (by omega)
        | true =>
          simp only [if_true]
          rw [ih _ _ _ (.inl rfl)]
          by_cases h : m = 8
          · subst h
            simp [hn, overflowAfterMatch]
            exact .inr (by omega)
          · have h1 : ¬ m ≤ 8 := by omega
            have h2 : ¬ m + 1 ≤ 8 := by omega
            simp [hn, overflowAfterMatch, h, h1, h2]
    · simp only [scan, hn, if_false, Bool.false_eq_true]
      rw [ih _ _ _ hm]
      simp [hn]

end Sys2Proof.Machine
end

