-- ==== Sys2Proof/Laws/Words.lean ====
section
/-! SUPPORT. The bits of the words that the encoder builds, one lemma per format. -/

namespace Sys2Proof

theorem cmdWord_bit (p : Bool) (s : Scanline) (i : Nat) :
    (cmdWord p s).getLsbD i = if i < 9 then s.getLsbD i else (BitVec.ofBool p).getLsbD (i - 9) :=
  BitVec.getLsbD_append (x := BitVec.ofBool p) (y := s)

theorem attrWord_bit (fv fh : Bool) (i : Nat) :
    (BitVec.ofBool fv ++ BitVec.ofBool fh : BitVec 2).getLsbD i =
      if i < 1 then (BitVec.ofBool fh).getLsbD i else (BitVec.ofBool fv).getLsbD (i - 1) :=
  BitVec.getLsbD_append (x := BitVec.ofBool fv) (y := BitVec.ofBool fh)

theorem busWord_bit (b w : Bool) (a : BusAddr) (d : Byte) (i : Nat) :
    (busWord b w a d).getLsbD i =
      if i < 8 then d.getLsbD i
      else if i - 8 < 16 then a.getLsbD (i - 8)
      else if i - 8 - 16 < 1 then (BitVec.ofBool w).getLsbD (i - 8 - 16)
      else (BitVec.ofBool b).getLsbD (i - 8 - 16 - 1) := by
  refine (BitVec.getLsbD_append (x := BitVec.ofBool b ++ BitVec.ofBool w ++ a) (y := d)).trans ?_
  rw [BitVec.getLsbD_append (x := BitVec.ofBool b ++ BitVec.ofBool w) (y := a),
    BitVec.getLsbD_append (x := BitVec.ofBool b) (y := BitVec.ofBool w)]

theorem wordOfEntry_bit (e : OamEntry) (i : Nat) :
    (wordOfEntry e).getLsbD i =
      if i < 8 then e.x.getLsbD i
      else if i - 8 < 8 then e.attr.getLsbD (i - 8)
      else if i - 8 - 8 < 8 then e.tile.getLsbD (i - 8 - 8)
      else e.y.getLsbD (i - 8 - 8 - 8) := by
  refine (BitVec.getLsbD_append (x := e.y ++ e.tile ++ e.attr) (y := e.x)).trans ?_
  rw [BitVec.getLsbD_append (x := e.y ++ e.tile) (y := e.attr),
    BitVec.getLsbD_append (x := e.y) (y := e.tile)]

end Sys2Proof
end

