-- ==== Sys2Proof/Laws/PerInstr.lean ====
section
/-! SUPPORT. A statement about every instruction as syntax: its word has the fixed bits that spec/opcode_table.json gives
its row (`match` under `mask`). The two BUS rows of a side fix the address to the side's window, so their row's bits are
asked for only there; OAM and ATTR words have no fixed bits (R89). -/

namespace Sys2Proof.Laws.TableBits

open Sys2Proof

/-- The bits of a word, as the table numbers them. -/
def bits : OpWord → Nat
  | .cmd w => w.toNat
  | .oam _ w => w.toNat
  | .attr _ w => w.toNat
  | .bus w => w.toNat
  | .cap w => w.toNat

/-- `mask` and `match` of the operation's row in spec/opcode_table.json. -/
def row : Instr → Nat × Nat
  | .eval _ => (0x200, 0x000)
  | .render _ => (0x200, 0x200)
  | .decode8 _ _ => (0, 0)
  | .decode16 _ _ => (0, 0)
  | .flip _ _ _ => (0, 0)
  | .readPrg _ _ => (0x3800000, 0x2800000)
  | .writePrg _ _ => (0x3800000, 0x3800000)
  | .readChr _ _ => (0x3E00000, 0x0000000)
  | .writeChr _ _ => (0x3E00000, 0x1000000)
  | .mReset => (7, 0)
  | .mTick => (7, 1)
  | .mIrq => (7, 2)
  | .mMirror => (7, 3)
  | .mSave => (7, 4)
  | .mLoad => (7, 5)

/-- Whether the operation's address, if it has one, lies in the window its row is written for (R89). -/
def inRow : Instr → Bool
  | .eval _ => true
  | .render _ => true
  | .decode8 _ _ => true
  | .decode16 _ _ => true
  | .flip _ _ _ => true
  | .readPrg a _ => a.getLsbD 15
  | .writePrg a _ => a.getLsbD 15
  | .readChr a _ => !(a.getLsbD 15 || a.getLsbD 14 || a.getLsbD 13)
  | .writeChr a _ => !(a.getLsbD 15 || a.getLsbD 14 || a.getLsbD 13)
  | .mReset => true
  | .mTick => true
  | .mIrq => true
  | .mMirror => true
  | .mSave => true
  | .mLoad => true

/-- The word of the operation has the fixed bits of its row. -/
def Statement (i : Instr) : Prop := inRow i = true → bits (encode i) &&& (row i).1 = (row i).2

/-- The fixed bits of a word, read off bit by bit. -/
theorem and_toNat_eq {n : Nat} {w mask m : BitVec n} (h : ∀ i < n, (w.getLsbD i && mask.getLsbD i) = m.getLsbD i) :
    w.toNat &&& mask.toNat = m.toNat := by
  rw [← BitVec.toNat_and]
  exact congrArg BitVec.toNat (BitVec.eq_of_getLsbD_eq fun i hi => by rw [BitVec.getLsbD_and]; exact h i hi)

theorem eval (s : Scanline) : Statement (.eval s) := fun _ =>
  and_toNat_eq (mask := 0x200#10) (m := 0#10) fun i hi => by
    interval_cases i <;> rw [cmdWord_bit] <;> simp

theorem render (s : Scanline) : Statement (.render s) := fun _ =>
  and_toNat_eq (mask := 0x200#10) (m := 0x200#10) fun i hi => by
    interval_cases i <;> rw [cmdWord_bit] <;> simp

theorem decode8 (n : Slot) (e : OamEntry) : Statement (.decode8 n e) := fun _ => Nat.and_zero _

theorem decode16 (n : Slot) (e : OamEntry) : Statement (.decode16 n e) := fun _ => Nat.and_zero _

theorem flip (i : BankIndex) (fv fh : Bool) : Statement (.flip i fv fh) := fun _ => Nat.and_zero _

theorem readPrg (a : BusAddr) (d : Byte) : Statement (.readPrg a d) := fun h =>
  and_toNat_eq (mask := 0x3800000#26) (m := 0x2800000#26) fun i hi => by
    simp only [inRow] at h
    interval_cases i <;> rw [busWord_bit] <;> simp_all

theorem writePrg (a : BusAddr) (d : Byte) : Statement (.writePrg a d) := fun h =>
  and_toNat_eq (mask := 0x3800000#26) (m := 0x3800000#26) fun i hi => by
    simp only [inRow] at h
    interval_cases i <;> rw [busWord_bit] <;> simp_all

theorem readChr (a : BusAddr) (d : Byte) : Statement (.readChr a d) := fun h =>
  and_toNat_eq (mask := 0x3E00000#26) (m := 0x0000000#26) fun i hi => by
    simp only [inRow, Bool.not_eq_true', Bool.or_eq_false_iff] at h
    interval_cases i <;> rw [busWord_bit] <;> simp_all

theorem writeChr (a : BusAddr) (d : Byte) : Statement (.writeChr a d) := fun h =>
  and_toNat_eq (mask := 0x3E00000#26) (m := 0x1000000#26) fun i hi => by
    simp only [inRow, Bool.not_eq_true', Bool.or_eq_false_iff] at h
    interval_cases i <;> rw [busWord_bit] <;> simp_all

theorem mReset : Statement .mReset := fun _ => by decide

theorem mTick : Statement .mTick := fun _ => by decide

theorem mIrq : Statement .mIrq := fun _ => by decide

theorem mMirror : Statement .mMirror := fun _ => by decide

theorem mSave : Statement .mSave := fun _ => by decide

theorem mLoad : Statement .mLoad := fun _ => by decide

end Sys2Proof.Laws.TableBits
end

