-- ==== Sys2Proof/Tests/Slice0.lean ====
section
/-! SUPPORT. Small tests against the vectors of 95_test_vectors.md and the formats of 30_encoding.md, and a witness for
the hypotheses of each statement. -/

namespace Sys2Proof.Tests

open Sys2Proof Sys2Proof.Machine

/-! ### Helpers -/

/-- The next state of an answer. -/
def after (a : Answer) : Option State :=
  match a with
  | .next t => some t
  | .fault _ => none
  | .refused _ => none

/-- An answer with a next state is one. -/
theorem next_of_isSome {a : Answer} (h : (after a).isSome = true) : ∃ t, a = .next t := by
  cases a with
  | next t => exact ⟨t, rfl⟩
  | fault _ => simp [after] at h
  | refused _ => simp [after] at h

/-- The reason of a refusal. -/
def refusalOf (a : Answer) : Option Refusal :=
  match a with
  | .next _ => none
  | .fault _ => none
  | .refused r => some r

/-- The image of the vectors: tile 1 is the test tile of section 2.4, tile 2 is solid 1 (section 2.7). -/
def img0 : RomImage :=
  { prg := [(0, 7), (0x3FFF, 68)], prgLen := 16384
    chr := [(0x10, 0x80), (0x11, 0x40), (0x12, 0x20), (0x13, 0x10), (0x14, 0x08), (0x15, 0x04), (0x16, 0x02),
            (0x17, 0xFF), (0x19, 0x40), (0x1B, 0x10), (0x1D, 0x04), (0x1E, 0xFF)] ++
           [(0x20, 0xFF), (0x21, 0xFF), (0x22, 0xFF), (0x23, 0xFF), (0x24, 0xFF), (0x25, 0xFF), (0x26, 0xFF),
            (0x27, 0xFF), (0x1FFF, 249)]
    chrLen := 8192, mirror := .vertical }

/-- Another image: all zero, mirrored horizontally. -/
def img1 : RomImage := { prg := [], prgLen := 32768, chr := [], chrLen := 8192, mirror := .horizontal }

/-- No configuration: a CHR image of 16 KB. -/
def imgBad : RomImage := { img1 with chrLen := 16384 }

/-- OAM with slots 0 to `k-1` at `Y = 50`, tile 2, attribute 0 (section 2.6). -/
def oamOf (k : Nat) : Memory := (List.range k).flatMap fun n => [(4 * n, 50), (4 * n + 1, 2), (4 * n + 2, 0), (4 * n + 3, 9)]

/-- The block just reset, with the image of the vectors and `k` slots at `Y = 50`. -/
def stateOf (k : Nat) : State := { State.reset with rom := some img0, oam := oamOf k }

/-- OAM with slot 0 alone, at the given `Y`. -/
def oneSlot (y : Byte) : Memory := oamWrite [] 0 y

/-- A record of 8 rows, all of its pixels `px`. -/
def solid (n : Slot) (px : Pixel) (pal : BitVec 2) (x : Byte) (behind : Bool) : Sprite :=
  { idx := n, grid := List.replicate 8 (List.replicate 8 px), pal := pal, x := x, y := 30
    fh := false, fv := false, behind := behind }

/-- The block with a given render bank of 8-row records and the background non-transparent at the given columns of row 30,
the other elements of BGT not written. -/
def withBank (rb : List Sprite) (bg : List Nat) : State :=
  { State.reset with rom := some img0, rb := rb, rbH16 := some false, bgt := bg.map fun x => (frameKey x 30, false) }

/-- The test tile as the vectors print it. -/
def testTile : Grid :=
  [[1, 0, 0, 0, 0, 0, 0, 0], [0, 3, 0, 0, 0, 0, 0, 0], [0, 0, 1, 0, 0, 0, 0, 0], [0, 0, 0, 3, 0, 0, 0, 0],
   [0, 0, 0, 0, 1, 0, 0, 0], [0, 0, 0, 0, 0, 3, 0, 0], [2, 2, 2, 2, 2, 2, 3, 2], [1, 1, 1, 1, 1, 1, 1, 1]]

/-- The record that holds the test tile. -/
def tileRecord : Sprite :=
  { idx := 0, grid := testTile, pal := 1, x := 20, y := 10, fh := true, fv := false, behind := false }

/-- Columns written on row `y`. -/
def writtenOn (y : Nat) (s : State) : List Nat := (List.range 256).filter fun x => (fbRead s.fb x y).isSome

/-! ### WellFormed -/

/-- R145: EVAL 240 is outside the operation's domain, EVAL 239 inside. -/
theorem test_wellFormed_eval :
    (Instr.eval 240).WellFormed = false ∧ (Instr.eval 239).WellFormed = true ∧
    (Instr.render 511).WellFormed = true := by decide

/-! ### Decoding: words written out from R80, R86, R87, R89, the opcode table and the vectors -/

/-- R86: phase bit, then nine bits of the scanline. -/
theorem test_decode_eval : decode false (.cmd 0b0011101111#10) = .ok (.eval 239) := by decide
theorem test_decode_render : decode false (.cmd 0b1111111111#10) = .ok (.render 511) := by decide
/-- P1's entry `0A010114`: Y = 10, tile 1, attribute 1, X = 20. -/
theorem test_decode_decode8 :
    decode false (.oam 5 0b00001010000000010000000100010100#32) = .ok (.decode8 5 ⟨10, 1, 1, 20⟩) := by decide
/-- P3's entry `6405A204`: Y = 100, tile 5, attribute 0xA2, X = 4. -/
theorem test_decode_decode16 :
    decode true (.oam 0 0b01100100000001011010001000000100#32) = .ok (.decode16 0 ⟨100, 5, 0xA2, 4⟩) := by decide
/-- The two bits are `vh`: the vertical flip is the left one. -/
theorem test_decode_flip :
    decode true (.attr 63 0b01#2) = .ok (.flip 63 false true) ∧ decode true (.attr 0 0b10#2) = .ok (.flip 0 true false) := by
  decide
/-- M2, M12, M10, M11: `{b, w, a, d}`. -/
theorem test_decode_bus :
    decode false (.bus 0b10101111111111111100000000#26) = .ok (.readPrg 0xBFFF 0) ∧
    decode false (.bus 0b11100000000000000010101010#26) = .ok (.writePrg 0x8000 0xAA) ∧
    decode false (.bus 0b00000111111111111100000000#26) = .ok (.readChr 0x1FFF 0) ∧
    decode false (.bus 0b01000000000001000001010101#26) = .ok (.writeChr 0x0010 0x55) := by decide
/-- R87: the six codes; R90: 6 and 7 are refused. -/
theorem test_decode_cap :
    decode false (.cap 0b000#3) = .ok .mReset ∧ decode false (.cap 0b001#3) = .ok .mTick ∧
    decode false (.cap 0b010#3) = .ok .mIrq ∧ decode false (.cap 0b011#3) = .ok .mMirror ∧
    decode false (.cap 0b100#3) = .ok .mSave ∧ decode false (.cap 0b101#3) = .ok .mLoad ∧
    decode false (.cap 0b110#3) = .error (.unassignedCap 6) ∧ decode false (.cap 0b111#3) = .error (.unassignedCap 7) := by
  decide
/-- R92. -/
theorem test_mirror_codes :
    [MirrorMode.horizontal, .vertical, .singleScreenA, .singleScreenB, .fourScreen].map mirrorCode = [0, 1, 2, 3, 4] := by
  decide
/-- A table word of each format runs as the first instruction after reset. -/
theorem test_fetch_table_words :
    decodeTableWord 10 0x209 = some (.render 9) ∧ decodeTableWord 26 0x2BFFF00 = some (.readPrg 0xBFFF 0) ∧
    decodeTableWord 32 0x0A010114 = some (.decode8 0 ⟨10, 1, 1, 20⟩) ∧ decodeTableWord 3 5 = some .mLoad ∧
    (after (step (State.reset.withFetchWord 10 0x209))).isSome = true ∧
    (after (step (State.reset.withFetchWord 2 3))).isSome = true := by decide

/-! ### EVAL -/

/-- E1a to E6b: where the slot is selected, at both ends of the interval. -/
theorem test_match_boundaries :
    [(10, false, 8), (10, false, 9), (10, false, 16), (10, false, 17), (10, true, 24), (10, true, 25), (0, false, 0),
      (0, false, 6), (0, false, 7), (1, false, 0), (239, false, 237), (239, false, 238)].map
      (fun v => slotMatches v.2.1 (oneSlot (BitVec.ofNat 8 v.1)) (nextScanline (BitVec.ofNat 9 v.2.2)) 0) =
      [false, true, true, false, true, false, true, true, false, true, false, true] ∧
    [(239, false, 239), (240, false, 239), (241, false, 239), (255, false, 239), (233, false, 239), (232, false, 239),
      (225, true, 239), (224, true, 239), (250, true, 0), (255, true, 5)].map
      (fun v => slotMatches v.2.1 (oneSlot (BitVec.ofNat 8 v.1)) (nextScanline (BitVec.ofNat 9 v.2.2)) 0) =
      [true, true, false, false, true, false, true, false, false, false] := by decide
/-- O2, O3, O7: eight matches set no flag; of nine the bank holds eight, the last is slot 7; with bypass it holds nine. -/
theorem test_eval_overflow :
    (after (exec (.eval 49) (stateOf 8))).map (fun t => (t.eb.length, t.overflow)) = some (8, false) ∧
    (after (exec (.eval 49) (stateOf 9))).map (fun t => (t.eb.length, t.eb.getLast?.map (·.idx), t.overflow)) =
      some (8, some 7, true) ∧
    (after (exec (.eval 49) { stateOf 9 with bypass := true })).map
      (fun t => (t.eb.length, t.eb.getLast?.map (·.idx), t.overflow)) = some (9, some 8, true) := by decide +kernel

/-! ### RENDER -/

/-- Of the compositor at row 30: RV1: columns 4 to 7 of a sprite at X = 252 are skipped. RV5b, RV5: with SHOW_LEFT clear a sprite at X = 2 shows at
8 and 9 and hits at 9, and one at X = 0 does neither. RV6: only slot 0 can hit. RV9: RENDER 240 changes nothing. R14, U5:
a row that is not complete and a height that was not kept are refused, the height for an empty bank too; R213: an empty
bank needs no row. -/
theorem test_render_edges_and_hits :
    [renderBank 30 true 8 (withBank [solid 0 1 3 252 false] []),
      renderBank 30 false 8 (withBank [solid 0 1 0 2 false] [9]),
      renderBank 30 false 8 (withBank [solid 0 1 0 0 false] [3]),
      renderBank 30 true 8 (withBank [solid 1 1 0 100 false] [100])].map (fun t => (writtenOn 30 t, t.zeroHit)) =
    [([252, 253, 254, 255], false), ([8, 9], true), ([], false),
      ([100, 101, 102, 103, 104, 105, 106, 107], false)] ∧
    (after (exec (.render 240) (withBank [solid 0 1 0 100 false] [100]))).map (writtenOn 240) = some [] ∧
    [exec (.render 31) (withBank [solid 0 1 3 252 false] []), exec (.render 30) { withBank [] [] with sprH16 := true },
      exec (.render 0) State.reset].map refusalOf =
    [some (.rowNotComplete 31), some .heightMismatch, none] := by decide +kernel
/-- RV3 and RV3c: the lower slot wins; a behind pixel over the background hides nothing. -/
theorem test_render_priority :
    fbRead (renderBank 30 true 8 { State.reset with rb := [solid 2 1 1 40 false, solid 5 1 2 44 false] }).fb 44 30 =
      some (spriteColour 0 1 1) ∧
    fbRead (renderBank 30 true 8 { State.reset with
        rb := [solid 2 1 1 40 true, solid 5 1 2 40 false], bgt := [(frameKey 43 30, false)] }).fb 43 30 =
      some (spriteColour 0 2 1) := by
  exact ⟨rfl, rfl⟩
/-- R85 and RV1's `3F1D`: palette 3, pixel 1. -/
theorem test_palette_address : paletteAddr 3 1 = 0x3F1D ∧ paletteAddr 0 1 = 0x3F11 ∧ paletteAddr 2 3 = 0x3F1B := by decide
/-- P4 and P5: the floor modulus of a row whose sprite starts below it, and a stale row. -/
theorem test_sprite_row :
    spriteRow 0 240 8 = 0 ∧ spriteRow 0 236 8 = 4 ∧ spriteRow 18 10 8 = 0 ∧ spriteRow 10 10 8 = 0 ∧
    spriteRow 115 100 16 = 15 := by decide

/-! ### DECODE8, DECODE16, FLIP -/

/-- UP3, UP4, UP5, UP10. -/
theorem test_unpack :
    unpackRow 0 0x80 = [2, 0, 0, 0, 0, 0, 0, 0] ∧ unpackRow 0x40 0x40 = [0, 3, 0, 0, 0, 0, 0, 0] ∧
    unpackRow 0x02 0xFF = [2, 2, 2, 2, 2, 2, 3, 2] ∧ unpackRow 0x0F 0xF0 = [2, 2, 2, 2, 1, 1, 1, 1] := by decide
/-- A1 with section 2.4: tile 1 is the test tile; attribute 0xA2 is V flip, behind, palette 2. -/
theorem test_decode8_record :
    (after (exec (.decode8 3 ⟨10, 1, 0xA2, 20⟩) (stateOf 0))).map (·.made) =
      some (.record ⟨3, testTile, 2, 20, 10, false, true, true⟩) := by decide +kernel
/-- A1, A2: the fetch sequence in 8x8 mode. -/
theorem test_fetches_8 :
    fetchSequence false false 1 = [0x10, 0x18, 0x11, 0x19, 0x12, 0x1A, 0x13, 0x1B, 0x14, 0x1C, 0x15, 0x1D, 0x16, 0x1E,
      0x17, 0x1F] ∧
    fetchSequence false true 0xFF = [0x1FF0, 0x1FF8, 0x1FF1, 0x1FF9, 0x1FF2, 0x1FFA, 0x1FF3, 0x1FFB, 0x1FF4, 0x1FFC,
      0x1FF5, 0x1FFD, 0x1FF6, 0x1FFE, 0x1FF7, 0x1FFF] := by decide
/-- A6: tile id 5 is tiles 4 and 5 of table 1. -/
theorem test_fetches_16 :
    fetchSequence true false 5 = [0x1040, 0x1048, 0x1041, 0x1049, 0x1042, 0x104A, 0x1043, 0x104B, 0x1044, 0x104C,
      0x1045, 0x104D, 0x1046, 0x104E, 0x1047, 0x104F] ++ [0x1050, 0x1058, 0x1051, 0x1059, 0x1052, 0x105A, 0x1053, 0x105B,
      0x1054, 0x105C, 0x1055, 0x105D, 0x1056, 0x105E, 0x1057, 0x105F] := by decide
/-- R121: tile id 2 in 8x16 mode is tile 2 above tile 3, here solid 1 above solid 0. -/
theorem test_decode16_record :
    (after (exec (.decode16 9 ⟨0, 2, 0x40, 1⟩) (stateOf 0))).map (·.made) =
      some (.record ⟨9, List.replicate 8 (List.replicate 8 1) ++ List.replicate 8 (List.replicate 8 0), 0, 1, 0, true,
        false, false⟩) := by decide +kernel
/-- F2: rows 0, 1 and 6 of the horizontal flip. -/
theorem test_flip_horizontal :
    (after (exec (.flip 0 false true) (withBank [tileRecord] []))).map (·.made) =
      some (.grid ([[0, 0, 0, 0, 0, 0, 0, 1], [0, 0, 0, 0, 0, 0, 3, 0], [0, 0, 0, 0, 0, 1, 0, 0], [0, 0, 0, 0, 3, 0, 0, 0],
        [0, 0, 0, 1, 0, 0, 0, 0], [0, 0, 3, 0, 0, 0, 0, 0], [2, 3, 2, 2, 2, 2, 2, 2], [1, 1, 1, 1, 1, 1, 1, 1]])) := by
  decide +kernel
/-- F3 and F4: row 1 of the vertical flip and of both. -/
theorem test_flip_vertical :
    (flipGrid testTile false true 8)[1]? = some [2, 2, 2, 2, 2, 2, 3, 2] ∧
    (flipGrid testTile true true 8)[1]? = some [2, 3, 2, 2, 2, 2, 2, 2] ∧
    (flipGrid testTile false true 8)[6]? = some [0, 3, 0, 0, 0, 0, 0, 0] := by decide +kernel

/-! ### The mapper -/

/-- M2, M4 and S13: a 16 KB image appears twice in the window. -/
theorem test_readPrg :
    (after (exec (.readPrg 0xBFFF 0) (stateOf 0))).map (·.ret) = some (.byte 68) ∧
    (after (exec (.readPrg 0xFFFF 0) (stateOf 0))).map (·.ret) = some (.byte 68) ∧
    (after (exec (.readPrg 0xC000 0) (stateOf 0))).map (·.ret) = some (.byte 7) := by decide
/-- M14. -/
theorem test_readPrg_unmapped :
    (after (exec (.readPrg 0x7FFF 0) (stateOf 0))).map (fun t => (t.ret, t.diags)) =
      some (.byte 0, [⟨.prg, 0x7FFF⟩]) := by decide
/-- M10. -/
theorem test_readChr : (after (exec (.readChr 0x1FFF 0) (stateOf 0))).map (·.ret) = some (.byte 249) := by decide
/-- M13. -/
theorem test_readChr_unmapped :
    (after (exec (.readChr 0x2000 0) (stateOf 0))).map (fun t => (t.ret, t.diags)) =
      some (.byte 0, [⟨.chr, 0x2000⟩]) := by decide
/-- M12. -/
theorem test_writePrg : (after (exec (.writePrg 0x8000 0xAA) (stateOf 0))).map (·.rom) = some (some img0) := by decide
/-- M11, M15: no effect, no diagnostic. -/
theorem test_writeChr :
    (after (exec (.writeChr 0x10 0x55) (stateOf 0))).map (·.rom) = some (some img0) ∧
    (after (exec (.writeChr 0x2000 1) (stateOf 0))).map (·.diags) = some [] := by decide
/-- M16. -/
theorem test_mReset : after (exec .mReset (stateOf 1)) = some (stateOf 1) := by decide
theorem test_mTick : after (exec .mTick (stateOf 1)) = some (stateOf 1) := by decide
/-- M17. -/
theorem test_mIrq : (after (exec .mIrq (stateOf 0))).map (·.ret) = some (.bool false) := by decide
/-- M18. -/
theorem test_mMirror : (after (exec .mMirror (stateOf 0))).map (·.ret) = some (.mirror .vertical) := by decide
/-- M19: Save succeeds; R192: with a failing stream it reports the failure. -/
theorem test_mSave :
    (after (exec .mSave (stateOf 0))).map (fun t => (t.ret, t.stream)) = some (.result true, .encoded img0) ∧
    (after (exec .mSave { stateOf 0 with streamFails := true })).map (·.ret) = some (.result false) := by decide
/-- M19: Load gives back what was saved; D29: after a failed Load the next operation is refused. -/
theorem test_mLoad :
    (after (exec .mLoad { stateOf 0 with stream := .encoded img1 })).map (fun t => (t.ret, t.rom)) =
      some (.result true, some img1) ∧
    refusalOf (exec (.eval 0) { stateOf 0 with rom := none }) = some .imageHoldsNoValue := by decide

/-! ### Witnesses: a concrete state and operands that meet the hypotheses of each statement -/

theorem witness_DecodeOfEncodeIsTheOperation :
    (Instr.decode8 0 ⟨1, 2, 3, 4⟩).decodesUnder false = true ∧ (Instr.decode16 63 ⟨1, 2, 3, 4⟩).decodesUnder true = true ∧
    (Instr.render 511).decodesUnder true = true := by decide
theorem witness_EncodeOfDecodeIsTheWord :
    decode false (.cmd 0x3FF) = .ok (.render 511) ∧ decode true (.oam 1 0x0A011D14) = .ok (.decode16 1 ⟨10, 1, 0x1D, 20⟩) ∧
    decode false (.bus 0x28000FF) = .ok (.readPrg 0x8000 0xFF) := by decide
theorem witness_OnlyUnassignedCapabilitiesAreRejected :
    (State.reset.setPending [.op (.capability 6)]).internal = none ∧
    (State.reset.setPending [.op (.capability 6)]).pending = [.op (.capability 6)] ∧ 6 ≤ (6 : BitVec 3).toNat ∧
    decode false (.cap 7) = .error (.unassignedCap 7) ∧ 6 ≤ (7 : BitVec 3).toNat := by decide
theorem witness_FetchesStayInThePatternWindow :
    0x1FFF ∈ fetchSequence true false 0xFF ∧ 15 < spriteHeight true ∧ 7 < spriteHeight false := by decide
theorem witness_StepRunsTheDecodedOperation :
    ((stateOf 1).setPending [.op (.command 0x31)]).internal = none ∧
    ((stateOf 1).setPending [.op (.command 0x31)]).pending = [.op (.command 0x31)] ∧
    decode (stateOf 1).sprH16 (requestWord (.command 0x31)) = .ok (.eval 49) ∧
    ((stateOf 1).setInternal (some (.decodeSlot 0))).internal = some (.decodeSlot 0) ∧
    fetchInternal (.decodeSlot 0) ((stateOf 1).setInternal (some (.decodeSlot 0))) = .ok (.oam 0 0x32020009) ∧
    decode (stateOf 1).sprH16 (.oam 0 0x32020009) = .ok (.decode8 0 ⟨50, 2, 0, 9⟩) := by
  refine ⟨rfl, rfl, by decide, rfl, rfl, by decide⟩
theorem witness_StepHoldsOrCarriesOutAnAction :
    State.reset.internal = none ∧ State.reset.pending = [] ∧
    (State.reset.setPending [.act .changePalette]).internal = none ∧
    (State.reset.setPending [.act .changePalette]).pending = [.act .changePalette] := by decide
theorem witness_InternalOperationsFetchTheirOperands :
    ((stateOf 1).setInternal (some (.decodeSlot 63))).internal = some (.decodeSlot 63) ∧
    ((withBank [tileRecord] []).setInternal (some (.flipRecord 0))).internal = some (.flipRecord 0) ∧
    ((withBank [tileRecord] []).setInternal (some (.flipRecord 0))).rb[(0 : BankIndex).val]? = some tileRecord := by decide
theorem witness_SlotMatchesExactlyItsInterval :
    oamRead (oneSlot 10) (4 * (0 : Slot).val) = oamRead (oamWrite (oneSlot 10) 1 7) (4 * (0 : Slot).val) := by decide
theorem witness_HighSlotsAreHidden :
    (239 : Scanline).toNat < 240 ∧ 241 ≤ (oamRead (oneSlot 241) (4 * (0 : Slot).val)).toNat ∧
    (oamRead (oneSlot 240) (4 * (0 : Slot).val)).toNat = 240 := by decide

/-- EVAL statements whose hypotheses are an image and a visible scanline, at both ends of the range. -/
theorem witness_eval_on_a_visible_scanline :
    (stateOf 9).rom = some img0 ∧ (0 : Scanline).toNat < 240 ∧ (239 : Scanline).toNat < 240 ∧
    (matchingSlots (stateOf 9) 50).length = 9 ∧ (stateOf 9).bypass = false := by decide +kernel
theorem witness_EvalFillsTheBankInOamOrder : (stateOf 9).rom = some img0 ∧ (49 : Scanline).toNat < 240 := by decide
theorem witness_EvalSetsOverflowAtTheNinthMatch :
    (stateOf 8).rom = some img0 ∧ (49 : Scanline).toNat < 240 ∧ (matchingSlots (stateOf 8) 50).length = 8 := by
  decide +kernel
theorem witness_ScanStopsAtTheNinthMatch :
    (stateOf 9).rom = some img0 ∧ (49 : Scanline).toNat < 240 ∧ (stateOf 9).bypass = false ∧
    (∀ a < 4 * (8 : Slot).val + 1, oamRead (oamWrite (oamOf 9) 33 0) a = oamRead (stateOf 9).oam a) ∧
    9 ≤ ((matchingSlots (stateOf 9) ((49 : Scanline).toNat + 1)).filter (· ≤ (8 : Slot))).length := by decide +kernel
theorem witness_EvalHandsOverAndChangesNothingElse :
    ({ stateOf 1 with eb := [tileRecord] }).rom = some img0 ∧ (239 : Scanline).toNat < 240 := by decide
theorem witness_EvalBankIsAscending :
    ∃ t, exec (.eval 49) (stateOf 9) = .next t ∧ t.eb.map (fun sp => sp.idx.val) = [0, 1, 2, 3, 4, 5, 6, 7] :=
  ⟨_, rfl, by decide +kernel⟩
theorem witness_EvalDependsOnlyOnItsInputs :
    let s := stateOf 9
    let s' := { stateOf 9 with overflow := true, zeroHit := true, showLeft := false, rb := [tileRecord], bgt := [(5, false)] }
    s.rom = some img0 ∧ s'.rom = some img0 ∧ (49 : Scanline).toNat < 240 ∧ s.oam = s'.oam ∧ s.sprH16 = s'.sprH16 ∧
    s.sprTable = s'.sprTable ∧ s.bypass = s'.bypass ∧ s.eb = s'.eb ∧ s ≠ s' := by decide
theorem witness_EvalKeepsTheRecordsThatDecodeReturns :
    (stateOf 9).rom = some img0 ∧ (49 : Scanline).toNat < 240 ∧
    (7 : Slot) ∈ keptSlots (stateOf 9) ((49 : Scanline).toNat + 1) ∧
    (7 : Slot) ∈ keptSlots { stateOf 8 with sprH16 := true } ((49 : Scanline).toNat + 1) := by decide +kernel
theorem witness_TwoEvalsLoseTheWaitingBank :
    ∃ t u, exec (.eval 49) (stateOf 1) = .next t ∧ exec (.eval 50) t = .next u := ⟨_, _, rfl, rfl⟩

theorem witness_DecodeEightReturnsTheRecord : (stateOf 0).rom = some img0 ∧ 7 < 8 := by decide
theorem witness_DecodeSixteenReturnsTheRecord : ({ stateOf 0 with sprH16 := true }).rom = some img0 ∧ 15 < 16 := by decide
theorem witness_UnpackCombinesThePlanes : 0 < 8 ∧ 7 < 8 := by decide
theorem witness_AttributeByteLayout :
    (stateOf 0).rom = some img0 ∧ Instr.decode16 0 ⟨0, 0, 0xFF, 0⟩ ∈ [Instr.decode8 0 ⟨0, 0, 0xFF, 0⟩, Instr.decode16 0 ⟨0, 0, 0xFF, 0⟩] := by
  decide
theorem witness_UnassignedAttributeBitsAreIgnored :
    (∀ b < 8, b ∉ [2, 3, 4] → (0x9E : Byte).getLsbD b = (0x82 : Byte).getLsbD b) ∧
    (stateOf 1).rom = some img0 ∧ (49 : Scanline).toNat < 240 ∧
    (∀ n : Slot, ∀ k < 4, k ≠ 2 → oamRead (oamWrite (oamOf 1) 2 0x1C) (4 * n.val + k) = oamRead (stateOf 1).oam (4 * n.val + k)) ∧
    (∀ n : Slot, ∀ b < 8, b ∉ [2, 3, 4] →
      (oamRead (oamWrite (oamOf 1) 2 0x1C) (4 * n.val + 2)).getLsbD b = (oamRead (stateOf 1).oam (4 * n.val + 2)).getLsbD b) := by
  decide +kernel
theorem witness_DecodeReadsOnlyItsFetchSequence :
    ∀ a ∈ fetchSequence false false 3, romByte img0.chr a = romByte img1.chr a := by decide
theorem witness_FlipMapsColumnsAndRows :
    (withBank [tileRecord] []).rom = some img0 ∧ (withBank [tileRecord] []).rb[(0 : BankIndex).val]? = some tileRecord ∧
    gridWf (spriteHeight (withBank [tileRecord] []).sprH16) tileRecord.grid := by decide
theorem witness_FlipIsAnInvolutionThatKeepsThePixels :
    gridWf 8 testTile ∧ gridWf 16 (testTile ++ testTile) := by decide

theorem witness_ReadPrgIndexesModuloTheLength :
    (stateOf 0).rom = some img0 ∧ 0x8000 ≤ (0x8000 : BusAddr).toNat ∧ 0x8000 ≤ (0xFFFF : BusAddr).toNat := by decide
theorem witness_ReadChrIndexesTheImage :
    (stateOf 0).rom = some img0 ∧ (0 : BusAddr).toNat ≤ 0x1FFF ∧ (0x1FFF : BusAddr).toNat ≤ 0x1FFF := by decide
theorem witness_UnmappedReadsReturnZeroWithADiagnostic :
    (stateOf 0).rom = some img0 ∧ 0x1FFF < (0x2000 : BusAddr).toNat ∧ (0x7FFF : BusAddr).toNat < 0x8000 := by decide
/-- The one hypothesis of the statements about the capabilities that read or ignore the image: RomWritesAreIgnored,
MapperResetAndTickDoNothing, PendingIrqIsFalseAndMirrorIsFixed. -/
theorem witness_RomWritesAreIgnored : (stateOf 0).rom = some img0 := by decide
theorem witness_MapperResetAndTickDoNothing : (stateOf 0).rom = some img0 := by decide
theorem witness_PendingIrqIsFalseAndMirrorIsFixed : (stateOf 0).rom = some img0 := by decide
theorem witness_SaveWritesTheImageOrReportsFailure :
    (stateOf 0).rom = some img0 ∧ (stateOf 0).streamFails = false ∧
    ({ stateOf 0 with streamFails := true }).rom = some img0 ∧ ({ stateOf 0 with streamFails := true }).streamFails = true := by
  decide
/-- The three clauses: a configuration in the stream, nothing in it, and no configuration in it. -/
theorem witness_LoadReplacesOrLosesTheImage :
    State.reset.streamFails = false ∧ streamImage (.encoded img1) = some img1 ∧ RomImage.valid img1 ∧
    streamImage State.reset.stream = none ∧ streamImage (.encoded imgBad) = some imgBad ∧ ¬RomImage.valid imgBad := by
  decide
theorem witness_SaveThenLoadRestoresTheImage :
    (stateOf 0).rom = some img0 ∧ RomImage.valid img0 ∧ (stateOf 0).streamFails = false := by decide
theorem witness_NothingButLoadRunsWithoutAnImage :
    ({ stateOf 0 with rom := none }).rom = none ∧ Instr.mTick ≠ .mLoad := by decide
theorem witness_MapperResultsDependOnTheImageAlone :
    (stateOf 0).rom = some img0 ∧ (stateOf 9).rom = some img0 ∧
    Instr.mIrq ∈ [Instr.readPrg 0 0, .readChr 0 0, .mIrq, .mMirror] ∧ Instr.mSave ≠ .mLoad ∧
    (∃ t, exec .mSave (stateOf 0) = .next t) := ⟨by decide, by decide, by decide, by decide, _, rfl⟩

/-- Rows 0, 30 and 239 of BGT complete, non-transparent at column 9 of row 30 alone. -/
@[irreducible] def bgRows : List (Nat × Bool) :=
  bgtWriteRow (bgtWriteRow (bgtWriteRow [] 0 (BitVec.allOnes 256) 256) 30 (~~~(BitVec.twoPow 256 9)) 256) 239
    (BitVec.allOnes 256) 256

theorem bgRows_complete {x y : Nat} (hx : x < 256) (hy : y ∈ [0, 30, 239]) : (bgtRead bgRows x y).isSome = true := by
  unfold bgRows
  simp only [bgtRead_writeRow _ _ _ (Nat.le_refl 256) hx, hx, and_true]
  fin_cases hy <;> simp

theorem bgRows_row {x : Nat} (hx : x < 256) : bgtRead bgRows x 30 = some (!decide (x = 9)) := by
  unfold bgRows
  simp only [bgtRead_writeRow _ _ _ (Nat.le_refl 256) hx, hx, and_true]
  simp [hx]

/-- A bank that RENDER takes: two overlapping records, the first over column 9, the second in slot 5. -/
def bankState : State := { withBank [solid 0 1 0 2 false, solid 5 1 2 4 false] [] with bgt := bgRows }

theorem bankState_done {y : Nat} (hy : y ∈ [0, 30, 239]) : backgroundDone bankState y :=
  .inr fun _ hx => bgRows_complete hx hy

theorem bankState_renders : ∃ t, exec (.render 30) bankState = .next t :=
  ⟨_, execRender_next rfl (by decide) (by decide) (bankState_done (by decide))⟩

theorem witness_RenderCompositesTheRow :
    bankState.rom = some img0 ∧ (0 : Scanline).toNat < 240 ∧ (239 : Scanline).toNat < 240 ∧ heightsAgree bankState ∧
    backgroundDone bankState (0 : Scanline).toNat ∧ backgroundDone bankState (239 : Scanline).toNat ∧
    (heightsAgree { State.reset with sprH16 := true } ∧ backgroundDone { State.reset with sprH16 := true } 0) :=
  ⟨rfl, by decide, by decide, by decide, bankState_done (by decide), bankState_done (by decide), by decide, .inl rfl⟩
theorem witness_RenderBelowTheDisplayIsANoOp :
    bankState.rom = some img0 ∧ 240 ≤ (240 : Scanline).toNat ∧ 240 ≤ (511 : Scanline).toNat := by decide
theorem witness_RenderChangesOnlyItsRowAndZeroHit :
    ∃ t, exec (.render 30) bankState = .next t := bankState_renders
/-- The second clause at X = 255, column 1. -/
theorem witness_ColumnsPastTheRightEdgeAreSkipped :
    (∃ t, exec (.render 30) bankState = .next t) ∧ (12 < 256 ∧ ∀ sp ∈ bankState.rb, ∀ c < 8, sp.x.toNat + c ≠ 12) ∧
    255 < (solid 0 1 0 255 false).x.toNat + 1 := ⟨bankState_renders, by decide, by decide⟩
/-- A hit at column 9, by a record that straddles x = 8; a masked column at x = 7; a shown one at x = 0. -/
theorem witness_LeftMaskHidesEightColumns :
    let s := { withBank [solid 0 1 0 2 false] [] with bgt := bgRows, showLeft := false }
    (∃ t, exec (.render 30) s = .next t ∧ t.zeroHit = true) ∧ s.showLeft = false ∧ s.zeroHit = false ∧
    (solid 0 1 0 0 false).x.toNat + 7 < 8 ∧
    ((solid 0 1 0 0 false).x.toNat + 0 ≤ 255 ∧ gridPixel (solid 0 1 0 0 false).grid 0 0 ≠ 0 ∧
      (solid 0 1 0 0 false).behind = false) := by
  refine ⟨⟨_, execRender_next rfl (by decide) (by decide) (.inr fun x hx => bgRows_complete hx (by decide)), ?_⟩, rfl, rfl,
    by decide, by decide⟩
  refine (foldl_renderColumn_zeroHit _ _ _ _ _ _ _).trans (Bool.or_eq_true _ _ ▸ .inr (List.any_eq_true.2 ⟨7, by decide, ?_⟩))
  have h : bgtOpaque bgRows 9 30 = true := by rw [bgtOpaque, bgRows_row (by decide)]; rfl
  exact Bool.and_eq_true _ _ ▸ ⟨by decide, Bool.and_eq_true _ _ ▸ ⟨by decide, h⟩⟩
theorem witness_ZeroHitNeedsExactlyItsConditions :
    bankState.rom = some img0 ∧ (30 : Scanline).toNat < 240 ∧ heightsAgree bankState ∧
    backgroundDone bankState (30 : Scanline).toNat := ⟨rfl, by decide, by decide, bankState_done (by decide)⟩
/-- The three clauses: a transparent pixel; a behind sprite over the background; a drawn pixel at the mask's edge. -/
theorem witness_TransparentAndBehindPixelsAreNotDrawn :
    gridPixel (solid 0 0 0 8 false).grid 0 0 = 0 ∧
    ((solid 0 1 0 9 true).behind = true ∧ bgtRead bankState.bgt ((solid 0 1 0 9 true).x.toNat + 0) 30 = some false) ∧
    ((solid 0 1 0 8 true).x.toNat + 0 ≤ 255 ∧ 8 ≤ (solid 0 1 0 8 true).x.toNat + 0 ∧
      gridPixel (solid 0 1 0 8 true).grid 0 0 ≠ 0 ∧
      bgtRead bankState.bgt ((solid 0 1 0 8 true).x.toNat + 0) 30 = some true) :=
  ⟨by decide, ⟨by decide, bgRows_row (x := 9) (by decide)⟩, by decide, by decide, by decide,
    bgRows_row (x := 8) (by decide)⟩
theorem witness_LowerIndexWinsTheOverlap :
    bankState.rom = some img0 ∧ (30 : Scanline).toNat < 240 ∧ heightsAgree bankState ∧
    backgroundDone bankState (30 : Scanline).toNat ∧
    bankState.rb.Pairwise (fun p q => p.idx < q.idx) ∧ 10 < 256 ∧ solid 5 1 2 4 false ∈ bankState.rb ∧
    drawsAt bankState (30 : Scanline).toNat 10 (solid 5 1 2 4 false) = true ∧
    (∀ q ∈ bankState.rb, q.idx < (solid 5 1 2 4 false).idx → drawsAt bankState (30 : Scanline).toNat 10 q = false) :=
  ⟨rfl, by decide, by decide, bankState_done (by decide), by decide, by decide, by decide, by decide +kernel,
    by decide +kernel⟩
theorem witness_RenderDoesNotSeeWhatEvalReads :
    let s := bankState
    let s' := { bankState with rom := some img1, oam := oamOf 1, sprTable := true, bypass := true, eb := [tileRecord] }
    s.rom = some img0 ∧ s'.rom = some img1 ∧ s.rb = s'.rb ∧ s.rbH16 = s'.rbH16 ∧ s.sprH16 = s'.sprH16 ∧
    s.showLeft = s'.showLeft ∧ s.bgt = s'.bgt ∧ s.palEpoch = s'.palEpoch ∧ s.fb = s'.fb ∧ s.zeroHit = s'.zeroHit ∧
    heightsAgree s ∧ backgroundDone s (30 : Scanline).toNat ∧ s ≠ s' :=
  ⟨rfl, rfl, rfl, rfl, rfl, rfl, rfl, rfl, rfl, rfl, by decide, bankState_done (by decide), fun h => nomatch congrArg State.eb h⟩
theorem witness_SpriteRowIsTheFloorModulus :
    (239 : Scanline).toNat < 240 ∧ slotMatches true (oneSlot 225) (nextScanline 239) 0 = true := by decide
/-- The clauses: EVAL 240; a bank of 8-row records, and an empty bank filled at 8, at SPR_H16 = 1; a row that is not
complete; an index at the count; a record of another height. -/
theorem witness_OperationsOutsideTheirDomainAreRefused :
    let s := withBank [solid 0 1 0 2 false, solid 5 1 2 4 false] []
    s.rom = some img0 ∧ 240 ≤ (240 : Scanline).toNat ∧ (239 : Scanline).toNat < 240 ∧
    ¬heightsAgree { s with sprH16 := true } ∧ ¬heightsAgree { s with rb := [], sprH16 := true } ∧
    (heightsAgree s ∧ ¬backgroundDone s (239 : Scanline).toNat) ∧
    s.rb.length ≤ (2 : BankIndex).val ∧ s.rb[(1 : BankIndex).val]? = some (solid 5 1 2 4 false) ∧
    (solid 5 1 2 4 false).grid.length ≠ spriteHeight ({ s with sprH16 := true }).sprH16 := by
  refine ⟨rfl, by decide, by decide, by decide, by decide, ⟨by decide, ?_⟩, by decide, by decide, by decide⟩
  rintro (h | h)
  · cases h
  · exact nomatch h 0 (by decide)

theorem witness_OnlyEvalAndRenderTouchBanksAndFlags :
    (∃ t, exec .mIrq { bankState with overflow := true, zeroHit := true } = .next t) ∧
    ∀ sl, Instr.mIrq ≠ .eval sl ∧ Instr.mIrq ≠ .render sl := ⟨⟨_, rfl⟩, fun _ => ⟨nofun, nofun⟩⟩
theorem witness_NoOperationWritesItsInputs : ∃ t, exec (.eval 0) (stateOf 9) = .next t := ⟨_, rfl⟩
theorem witness_OnlyUnmappedReadsEmitDiagnostics :
    ∃ t, exec (.readChr 0x2000 0) (stateOf 0) = .next t ∧ t.diags ≠ (stateOf 0).diags := ⟨_, rfl, by decide⟩
theorem witness_HostActionsWriteTheirTarget :
    Memory.wf 256 oamUnlisted (oamOf 9) ∧ 29 ≠ (30 : FrameRow).val ∧ RomImage.valid img0 ∧
    ¬RomImage.valid imgBad := by decide +kernel
theorem witness_BlockResetEmptiesBothBanks :
    bankState.rom = some img0 ∧ ∃ t, act .resetBlock bankState = .next t := ⟨by decide, _, rfl⟩
theorem witness_FrameIsEveryLineOnce : 239 < 240 := by decide

/-- A state that meets the invariant, with records in both banks and every memory listed, and a step from it. -/
theorem witness_EveryStepKeepsTheMachineWellFormed :
    let s := { withBank [solid 0 1 0 2 false, solid 5 1 2 4 false] [] with
      eb := [tileRecord], ebH16 := some false, oam := oamOf 9, bgt := [(0, true), (61439, false)],
      fb := [(0, ⟨1⟩), (61439, ⟨2⟩)], pending := [.op (.command 0x31)] }
    s.Inv ∧ ∃ t, step s = .next t := by
  refine ⟨⟨by decide, by decide, by decide +kernel, by decide, by decide, ?_⟩, next_of_isSome (by decide +kernel)⟩
  intro img h
  cases h
  decide

/-- Two states that look alike, the second with an empty RB and other records in EB: an EVAL, a RENDER of row 30, and a RENDER
below the display. -/
theorem witness_BanksAreHiddenFromTheHost :
    let s := bankState.setPending [.op (.command 0x31)]
    let s' := { s with eb := [tileRecord], rb := [], ebH16 := some true, made := .record tileRecord }
    s.hostView = s'.hostView ∧ s.internal = none ∧ s'.internal = none ∧ (0x31 : BitVec 10).getLsbD 9 = false ∧
    240 ≤ ((0x2F0 : BitVec 10).extractLsb' 0 9).toNat ∧
    (∃ t, exec (.render 30) s = .next t) ∧ (∃ t, exec (.render 30) s' = .next t) ∧ ∃ t, step s = .next t :=
  ⟨rfl, rfl, rfl, by decide, by decide,
    ⟨_, execRender_next rfl (by decide) (by decide) (.inr fun x hx => bgRows_complete hx (by decide))⟩,
    ⟨_, execRender_next rfl (by decide) (by decide) (.inl rfl)⟩, _, rfl⟩
theorem witness_ChangesAfterEvalMissTheNextRender :
    bankState.rom = some img0 ∧ (238 : Scanline).toNat + 1 < 240 ∧
    (∀ x < 256, (bgtRead bankState.bgt x ((238 : Scanline).toNat + 1)).isSome = true) :=
  ⟨rfl, by decide, fun _ hx => bgRows_complete hx (by decide)⟩

end Sys2Proof.Tests
end

