-- ==== Sys2Proof/Proofs/PaletteAddress.lean ====
section
/-! The sprite palette address (R85, format PAL): its value as a number and its three fields. -/

namespace Sys2Proof.Machine

open Sys2Proof

/-- Joining two words shifts the upper one past the lower one: the two occupy separate bits, so their values add. -/
theorem toNat_append_eq_add {m n : Nat} (x : BitVec m) (y : BitVec n) :
    (x ++ y).toNat = x.toNat * 2 ^ n + y.toNat := by
  rw [BitVec.toNat_append, ← Nat.shiftLeft_add_eq_or_of_lt y.isLt, Nat.shiftLeft_eq]

theorem paletteAddr_toNat (pal : BitVec 2) (px : Pixel) :
    (paletteAddr pal px).toNat = 0x3F10 + pal.toNat * 4 + px.toNat := by
  simp only [paletteAddr, toNat_append_eq_add, BitVec.toNat_ofNat]
  omega

theorem paletteAddr_prefix (pal : BitVec 2) (px : Pixel) :
    (paletteAddr pal px).extractLsb' 4 12 = 0x3F1#12 := by
  unfold paletteAddr
  rw [BitVec.extractLsb'_append_eq_of_le (by decide), BitVec.extractLsb'_append_eq_of_le (by decide)]
  exact BitVec.extractLsb'_eq_self

theorem paletteAddr_selector (pal : BitVec 2) (px : Pixel) :
    (paletteAddr pal px).extractLsb' 2 2 = pal := by
  unfold paletteAddr
  rw [BitVec.extractLsb'_append_eq_of_le (by decide)]
  exact BitVec.extractLsb'_append_eq_right

theorem paletteAddr_pixel (pal : BitVec 2) (px : Pixel) :
    (paletteAddr pal px).extractLsb' 0 2 = px :=
  BitVec.extractLsb'_append_eq_right

/-- Settles O7, from the value of a joined word and the place of each of its fields. -/
theorem paletteAddressIsTheSum : Obligations.PaletteAddressIsTheSum := fun pal px =>
  ⟨paletteAddr_toNat pal px, paletteAddr_prefix pal px, paletteAddr_selector pal px, paletteAddr_pixel pal px⟩

end Sys2Proof.Machine
end

