-- ==== Sys2Proof/Proofs/MapperCapabilities.lean ====
section
/-! What each capability of the reference mapper answers while the mapper holds an image (40_mapper_bus.md R100 to R107):
one equation per capability, both sides of its window where it has one. -/

namespace Sys2Proof.Machine

open Sys2Proof

theorem inPrgWindow_iff (a : BusAddr) : inPrgWindow a = true ↔ 0x8000 ≤ a.toNat := decide_eq_true_iff

theorem inChrWindow_iff (a : BusAddr) : inChrWindow a = true ↔ a.toNat ≤ 0x1FFF := decide_eq_true_iff

section HoldsImage

variable {s : State} {img : RomImage} (h : s.rom = some img)
include h

theorem exec_readPrg_of_image (a : BusAddr) (d : Byte) :
    exec (.readPrg a d) s =
      if 0x8000 ≤ a.toNat then .next (s.setRet (.byte (prgByte img a))) else .next (unmappedRead s .prg a) := by
  have hexec : exec (.readPrg a d) s = _ := withImage_some h _
  simpa only [inPrgWindow_iff] using hexec

theorem exec_readChr_of_image (a : BusAddr) (d : Byte) :
    exec (.readChr a d) s =
      if a.toNat ≤ 0x1FFF then .next (s.setRet (.byte (chrByte img a))) else .next (unmappedRead s .chr a) := by
  have hexec : exec (.readChr a d) s = _ := withImage_some h _
  simpa only [inChrWindow_iff] using hexec

theorem exec_mReset_of_image : exec .mReset s = .next s := withImage_some h _

theorem exec_mTick_of_image : exec .mTick s = .next s := withImage_some h _

theorem exec_mIrq_of_image : exec .mIrq s = .next (s.setRet (.bool false)) := withImage_some h _

theorem exec_mMirror_of_image : exec .mMirror s = .next (s.setRet (.mirror img.mirror)) := withImage_some h _

end HoldsImage

/-- Settles O29: inside the window READPRG takes its first branch, whose byte is read at the whole address reduced modulo
the length (R100). -/
theorem readPrgIndexesModuloTheLength : Obligations.ReadPrgIndexesModuloTheLength := fun _ _ a d h ha =>
  (exec_readPrg_of_image h a d).trans (if_pos ha)

/-- Settles O30: inside the window READCHR takes its first branch, whose byte is read at the address itself (R102). -/
theorem readChrIndexesTheImage : Obligations.ReadChrIndexesTheImage := fun _ _ a d h ha =>
  (exec_readChr_of_image h a d).trans (if_pos ha)

/-- Settles O33: with an image to go on with, both capabilities give the state back (R104, R105). -/
theorem mapperResetAndTickDoNothing : Obligations.MapperResetAndTickDoNothing := fun _ _ h =>
  ⟨exec_mReset_of_image h, exec_mTick_of_image h⟩

/-- Settles O34: both capabilities only give a value back, the second one the image's own (R106, R107). -/
theorem pendingIrqIsFalseAndMirrorIsFixed : Obligations.PendingIrqIsFalseAndMirrorIsFixed := fun _ _ h =>
  ⟨exec_mIrq_of_image h, exec_mMirror_of_image h⟩

end Sys2Proof.Machine
end

