-- ==== Sys2Proof/Proofs/TileFlips.lean ====
section
/-! The two flips of FLIP (41_sprite_decode.md R123, R126): how flips compose, and each flip as a reversal of lists. -/

namespace Sys2Proof.Machine

open Sys2Proof

theorem flipGrid_of_no_flag {h : Nat} {g : Grid} (hg : gridWf h g) : flipGrid g false false h = g :=
  grid_ext (flipGrid_wf ..) hg fun _ hc _ hr => flipGrid_pixel g false false hc hr

/-- Flipping twice flips along the axes that exactly one of the two flips has: a column or row that is mirrored twice
stands where it stood. -/
theorem flipGrid_flipGrid (g : Grid) (fh fv fh' fv' : Bool) (h : Nat) :
    flipGrid (flipGrid g fh fv h) fh' fv' h = flipGrid g (fh ^^ fh') (fv ^^ fv') h := by
  refine grid_ext (flipGrid_wf ..) (flipGrid_wf ..) fun c hc r hr => ?_
  have hcol : (if fh' then 7 - c else c) < 8 := by split <;> omega
  have hrow : (if fv' then h - 1 - r else r) < h := by split <;> omega
  rw [flipGrid_pixel _ _ _ hc hr, flipGrid_pixel _ _ _ hcol hrow, flipGrid_pixel _ _ _ hc hr]
  congr 1
  -- only a mirror of a mirror asks for arithmetic: `7 - (7 - c) = c`, and the same for rows
  · cases fh <;> cases fh' <;> simp
    omega
  · cases fv <;> cases fv' <;> simp
    omega

theorem flipGrid_horizontal {h : Nat} {g : Grid} (hg : gridWf h g) :
    flipGrid g true false h = g.map List.reverse := by
  obtain ⟨hlen, hrows⟩ := hg
  have hwf : gridWf h (g.map List.reverse) :=
    ⟨by simpa using hlen, List.forall_mem_map.2 fun row hrow => List.length_reverse.trans (hrows row hrow)⟩
  refine grid_ext (flipGrid_wf ..) hwf fun c hc r hr => ?_
  have hrg : r < g.length := by omega
  have hrow : g[r].length = 8 := hrows _ (List.getElem_mem hrg)
  have hcol : 7 - c < g[r].length := by omega
  rw [flipGrid_pixel _ _ _ hc hr]
  simp [gridPixel, List.getD_eq_getElem?_getD, hrg, hrow, hc, List.getElem?_eq_getElem hcol]

theorem flipGrid_vertical {h : Nat} {g : Grid} (hg : gridWf h g) :
    flipGrid g false true h = g.reverse := by
  obtain ⟨hlen, hrows⟩ := hg
  have hwf : gridWf h g.reverse := ⟨by simpa using hlen, by simpa using hrows⟩
  refine grid_ext (flipGrid_wf ..) hwf fun c hc r hr => ?_
  have hrow : h - 1 - r < g.length := by omega
  rw [flipGrid_pixel _ _ _ hc hr]
  simp [gridPixel, List.getD_eq_getElem?_getD, hlen, hr, List.getElem?_eq_getElem hrow]

theorem flipGrid_horizontal_perm {h : Nat} {g : Grid} (hg : gridWf h g) :
    (flipGrid g true false h).flatten.Perm g.flatten := by
  rw [flipGrid_horizontal hg]
  simpa [List.flatMap_def] using List.Perm.flatMap_left (f := List.reverse) (g := id) g fun row _ => row.reverse_perm

theorem flipGrid_vertical_perm {h : Nat} {g : Grid} (hg : gridWf h g) :
    (flipGrid g false true h).flatten.Perm g.flatten := by
  rw [flipGrid_vertical hg]
  exact g.reverse_perm.flatten

/-- A flip moves the pixels and neither loses nor repeats one: the horizontal flip permutes them within each row, the
vertical one permutes the rows, and the half-turn is the one after the other. -/
theorem flipGrid_perm {h : Nat} {g : Grid} (hg : gridWf h g) (fh fv : Bool) :
    (flipGrid g fh fv h).flatten.Perm g.flatten := by
  cases fh <;> cases fv
  case false.false => rw [flipGrid_of_no_flag hg]
  case false.true => exact flipGrid_vertical_perm hg
  case true.false => exact flipGrid_horizontal_perm hg
  case true.true =>
    have hhalf : flipGrid (flipGrid g true false h) false true h = flipGrid g true true h := flipGrid_flipGrid ..
    rw [← hhalf]
    exact (flipGrid_vertical_perm (flipGrid_wf ..)).trans (flipGrid_horizontal_perm hg)

/-- Settles O28, from the composition of two flips, the place of each pixel, and each flip as a permutation of the
pixels (R126). -/
theorem flipIsAnInvolutionThatKeepsThePixels : Obligations.FlipIsAnInvolutionThatKeepsThePixels := by
  intro h g hg
  have hinvolution (fh fv : Bool) : flipGrid (flipGrid g fh fv h) fh fv h = g := by
    rw [flipGrid_flipGrid, Bool.xor_self, Bool.xor_self, flipGrid_of_no_flag hg]
  exact ⟨flipGrid_of_no_flag hg, hinvolution, flipGrid_flipGrid .., flipGrid_flipGrid ..,
    fun _ hc _ hr => flipGrid_pixel g true true hc hr, flipGrid_perm hg,
    fun fh fv _ hc _ hr => flipGrid_pixel g fh fv hc hr⟩

end Sys2Proof.Machine
end

