-- ==== Sys2Proof/Proofs/SpriteEvaluation.lean ====
section
/-! What EVAL answers on a visible scanline (42_sprite_evaluate.md R140 to R146): the outcome of its pass, and the part of
the state that the pass reads. -/

namespace Sys2Proof.Machine

open Sys2Proof

/-- The pass starts with no match and an empty bank, so the scan keeps the first eight places, or all with bypass, and the
flag rises with the ninth match (R142, R143). -/
theorem evalPass_eq (s : State) (img : RomImage) (t : Nat) :
    evalPass s img t =
      ((keptSlots s t).map (decodeSlot s.sprH16 s.sprTable img s.oam),
       s.overflow || decide (9 ≤ (matchingSlots s t).length)) := by
  have hnone : s.bypass = true ∨ 0 ≤ 8 := .inr (Nat.zero_le 8)
  rw [evalPass, scan_spec _ _ _ _ _ _ _ hnone, Nat.zero_add]
  rfl

/-- EVAL on a visible scanline completes: the handoff of the banks (R144) and the outcome of the pass for the scanline
after it (R141). -/
theorem exec_eval_of_visible {s : State} {img : RomImage} (h : s.rom = some img) {sl : Scanline} (hs : sl.toNat < 240) :
    exec (.eval sl) s =
      .next (s.setBanks ((keptSlots s (sl.toNat + 1)).map (decodeSlot s.sprH16 s.sprTable img s.oam)) s.eb (some s.sprH16)
        s.ebH16 (s.overflow || decide (9 ≤ (matchingSlots s (sl.toNat + 1)).length))) := by
  have hexec : exec (.eval sl) s = _ := (withImage_some h _).trans (if_pos hs)
  rw [hexec, evalPass_eq]
  rfl

/-- The match test reads OAM and SPR_H16 only (R141). -/
theorem matchingSlots_congr {s s' : State} (hoam : s.oam = s'.oam) (hh16 : s.sprH16 = s'.sprH16) (t : Nat) :
    matchingSlots s t = matchingSlots s' t := by
  rw [matchingSlots, matchingSlots, hoam, hh16]

/-- Which matches are kept depends on the matches and on BYPASS only (R142). -/
theorem keptSlots_congr {s s' : State} (hoam : s.oam = s'.oam) (hh16 : s.sprH16 = s'.sprH16)
    (hbypass : s.bypass = s'.bypass) (t : Nat) : keptSlots s t = keptSlots s' t := by
  rw [keptSlots, keptSlots, matchingSlots_congr hoam hh16, hbypass]

/-- Settles O13: the bank of the state that EVAL answers is the records of the kept slots (R142). -/
theorem evalFillsTheBankInOamOrder : Obligations.EvalFillsTheBankInOamOrder := fun _ _ _ h hs =>
  ⟨_, exec_eval_of_visible h hs, rfl⟩

/-- Settles O18: the flag's old value and the ninth match are joined only at the end, and the two states have the same
matches, the same kept slots and the same EB to hand over (R146). -/
theorem evalDependsOnlyOnItsInputs : Obligations.EvalDependsOnlyOnItsInputs := by
  intro s s' img sl h h' hs hoam hh16 htable hbypass heb
  refine ⟨_, _, decide (9 ≤ (matchingSlots s (sl.toNat + 1)).length), exec_eval_of_visible h hs,
    exec_eval_of_visible h' hs, ?bank, heb, rfl, ?overflow, rfl, rfl, rfl⟩
  case bank =>
    simp only [State.setBanks_eb]
    rw [keptSlots_congr hoam hh16 hbypass, hoam, hh16, htable]
  case overflow =>
    rw [State.setBanks_overflow, matchingSlots_congr hoam hh16]

end Sys2Proof.Machine
end

