-- ==== Sys2Proof/Proofs/RenderBelowDisplay.lean ====
section
/-! RENDER of a scanline below the display (43_sprite_render.md R170). -/

namespace Sys2Proof.Machine

open Sys2Proof

/-- Settles O41: of what RENDER can answer, the refusals and the drawing are for a scanline on the display, which this one
is not; below it the state is given back, whatever the heights and the row of BGT (R170). -/
theorem renderBelowTheDisplayIsANoOp : Obligations.RenderBelowTheDisplayIsANoOp := by
  intro s img sl hrom hbelow
  rcases execRender_cases hrom sl with ⟨-, hnoop⟩ | ⟨hvisible, -⟩ | ⟨hvisible, -⟩ | ⟨hvisible, -⟩
  · exact hnoop
  all_goals exact absurd hvisible (by omega)

end Sys2Proof.Machine
end

