-- ==== Sys2Proof/Proofs/WordCodec.lean ====
section
/-! Decoder and encoder are inverse to each other (30_encoding.md R80, R86, R87, R89): for each format, the fields of
a built word and the word built from its fields. -/

namespace Sys2Proof

/-! ### The fields of a built word -/

theorem cmdWord_phase (p : Bool) (s : Scanline) : (cmdWord p s).getLsbD 9 = p := by
  rw [cmdWord_bit]
  simp

theorem cmdWord_scanline (p : Bool) (s : Scanline) : (cmdWord p s).extractLsb' 0 9 = s :=
  BitVec.extractLsb'_append_eq_right

theorem decodeCmd_cmdWord (p : Bool) (s : Scanline) :
    decodeCmd (cmdWord p s) = if p then .render s else .eval s := by
  rw [decodeCmd, cmdWord_phase, cmdWord_scanline]
  cases p <;> rfl

@[simp] theorem entryOfWord_wordOfEntry (e : OamEntry) : entryOfWord (wordOfEntry e) = e := by
  have hy : (wordOfEntry e).extractLsb' 24 8 = e.y := by
    iterate 3 refine (BitVec.extractLsb'_append_eq_of_le (by decide)).trans ?_
    exact BitVec.extractLsb'_eq_self
  have htile : (wordOfEntry e).extractLsb' 16 8 = e.tile := by
    iterate 2 refine (BitVec.extractLsb'_append_eq_of_le (by decide)).trans ?_
    exact BitVec.extractLsb'_append_eq_right
  have hattr : (wordOfEntry e).extractLsb' 8 8 = e.attr := by
    refine (BitVec.extractLsb'_append_eq_of_le (by decide)).trans ?_
    exact BitVec.extractLsb'_append_eq_right
  have hx : (wordOfEntry e).extractLsb' 0 8 = e.x := BitVec.extractLsb'_append_eq_right
  rw [entryOfWord, hy, htile, hattr, hx]

theorem decodeAttr_attrWord (i : BankIndex) (fv fh : Bool) :
    decodeAttr i (BitVec.ofBool fv ++ BitVec.ofBool fh) = .flip i fv fh := by
  rw [decodeAttr, attrWord_bit, attrWord_bit]
  simp

theorem busWord_side (b w : Bool) (a : BusAddr) (d : Byte) : (busWord b w a d).getLsbD 25 = b := by
  rw [busWord_bit]
  simp

theorem busWord_direction (b w : Bool) (a : BusAddr) (d : Byte) : (busWord b w a d).getLsbD 24 = w := by
  rw [busWord_bit]
  simp

theorem busWord_address (b w : Bool) (a : BusAddr) (d : Byte) : (busWord b w a d).extractLsb' 8 16 = a :=
  (BitVec.extractLsb'_append_eq_of_le (by decide)).trans BitVec.extractLsb'_append_eq_right

theorem busWord_data (b w : Bool) (a : BusAddr) (d : Byte) : (busWord b w a d).extractLsb' 0 8 = d :=
  BitVec.extractLsb'_append_eq_right

/-- The four BUS operations are told apart by the side and the direction bit (R87). -/
theorem decodeBus_busWord (b w : Bool) (a : BusAddr) (d : Byte) :
    decodeBus (busWord b w a d) =
      if b then if w then .writePrg a d else .readPrg a d else if w then .writeChr a d else .readChr a d := by
  rw [decodeBus, busWord_side, busWord_direction, busWord_address, busWord_data]
  cases b <;> cases w <;> rfl

/-- Settles O1, format by format: the decoder reads back the fields that the encoder joined. -/
theorem decodeOfEncodeIsTheOperation : Obligations.DecodeOfEncodeIsTheOperation := by
  intro i h16 hmode
  cases i with
  | eval s => exact congrArg Except.ok (decodeCmd_cmdWord false s)
  | render s => exact congrArg Except.ok (decodeCmd_cmdWord true s)
  | decode8 n e =>
    have hlow : h16 = false := by simpa [Instr.decodesUnder] using hmode
    simp [encode, decode, decodeOam, hlow]
  | decode16 n e =>
    have hhigh : h16 = true := hmode
    simp [encode, decode, decodeOam, hhigh]
  | flip i fv fh => exact congrArg Except.ok (decodeAttr_attrWord i fv fh)
  | readPrg a d => exact congrArg Except.ok (decodeBus_busWord true false a d)
  | writePrg a d => exact congrArg Except.ok (decodeBus_busWord true true a d)
  | readChr a d => exact congrArg Except.ok (decodeBus_busWord false false a d)
  | writeChr a d => exact congrArg Except.ok (decodeBus_busWord false true a d)
  | mReset | mTick | mIrq | mMirror | mSave | mLoad => rfl

/-! ### The word built from its fields -/

theorem cmdWord_fields (w : BitVec 10) : cmdWord (w.getLsbD 9) (w.extractLsb' 0 9) = w := by
  refine BitVec.eq_of_getLsbD_eq fun i hi => ?_
  rw [cmdWord_bit]
  split
  · next hlow => simp [hlow]
  · next hhigh =>
    obtain rfl : i = 9 := by omega
    simp

@[simp] theorem wordOfEntry_entryOfWord (w : BitVec 32) : wordOfEntry (entryOfWord w) = w := by
  refine BitVec.eq_of_getLsbD_eq fun i hi => ?_
  have hbyte (base j : Nat) (hj : j < 8) : (w.extractLsb' base 8).getLsbD j = w.getLsbD (base + j) := by
    simp [hj]
  rw [wordOfEntry_bit]
  simp only [entryOfWord]
  split_ifs
  all_goals
    rw [hbyte _ _ (by omega)]
    congr 1
    omega

theorem attrWord_fields (w : BitVec 2) : BitVec.ofBool (w.getLsbD 1) ++ BitVec.ofBool (w.getLsbD 0) = w := by
  refine BitVec.eq_of_getLsbD_eq fun i hi => ?_
  rw [attrWord_bit]
  interval_cases i <;> simp

theorem busWord_fields (w : BitVec 26) :
    busWord (w.getLsbD 25) (w.getLsbD 24) (w.extractLsb' 8 16) (w.extractLsb' 0 8) = w := by
  refine BitVec.eq_of_getLsbD_eq fun i hi => ?_
  rw [busWord_bit]
  split_ifs with hdata haddr hdir
  · simp [hdata]
  · have hi8 : 8 + (i - 8) = i := by omega
    simp [haddr, hi8]
  · obtain rfl : i = 24 := by omega
    simp
  · obtain rfl : i = 25 := by omega
    simp

theorem encode_decodeCmd (w : BitVec 10) : encode (decodeCmd w) = .cmd w := by
  have hw := cmdWord_fields w
  unfold decodeCmd
  cases hphase : w.getLsbD 9 <;> rw [hphase] at hw <;> exact congrArg OpWord.cmd hw

theorem encode_decodeOam (h16 : Bool) (n : Slot) (w : BitVec 32) : encode (decodeOam h16 n w) = .oam n w := by
  cases h16 <;> simp [decodeOam, encode]

theorem encode_decodeAttr (i : BankIndex) (w : BitVec 2) : encode (decodeAttr i w) = .attr i w :=
  congrArg (OpWord.attr i) (attrWord_fields w)

theorem encode_decodeBus (w : BitVec 26) : encode (decodeBus w) = .bus w := by
  have hw := busWord_fields w
  unfold decodeBus
  cases hside : w.getLsbD 25 <;> cases hdir : w.getLsbD 24 <;> rw [hside, hdir] at hw <;> exact congrArg OpWord.bus hw

/-! ### CAP words -/

/-- The six CAP words that are operations, and the two that are not (R87, R90). -/
theorem decodeCap_cases (k : BitVec 3) :
    (k.toNat < 6 ∧ ∃ i, decodeCap k = .ok i ∧ encode i = .cap k) ∨
      (6 ≤ k.toNat ∧ decodeCap k = .error (.unassignedCap k)) := by
  unfold decodeCap
  split
  iterate 6
    · next hk => exact .inl ⟨by omega, _, rfl, congrArg OpWord.cap (BitVec.eq_of_toNat_eq hk.symm)⟩
  · next hne0 hne1 hne2 hne3 hne4 hne5 =>
    simp only [imp_false] at hne0 hne1 hne2 hne3 hne4 hne5
    exact .inr ⟨by omega, rfl⟩

/-- Settles O2, format by format: the encoder joins again the fields that the decoder took apart, and of the CAP words
only those that decode are asked for. -/
theorem encodeOfDecodeIsTheWord : Obligations.EncodeOfDecodeIsTheWord := by
  intro h16 w i hdecode
  cases w with
  | cmd w => cases hdecode; exact encode_decodeCmd w
  | oam n w => cases hdecode; exact encode_decodeOam h16 n w
  | attr i w => cases hdecode; exact encode_decodeAttr i w
  | bus w => cases hdecode; exact encode_decodeBus w
  | cap k =>
    rw [decode] at hdecode
    rcases decodeCap_cases k with ⟨-, j, hj, henc⟩ | ⟨-, herr⟩
    · rw [hj] at hdecode
      cases hdecode
      exact henc
    · rw [herr] at hdecode
      cases hdecode

theorem decode_error_iff (h16 : Bool) (w : OpWord) (e : DecodeError) :
    decode h16 w = .error e ↔ ∃ k : BitVec 3, w = .cap k ∧ 6 ≤ k.toNat ∧ e = .unassignedCap k := by
  cases w with
  | cmd w => simp [decode]
  | oam n w => simp [decode]
  | attr i w => simp [decode]
  | bus w => simp [decode]
  | cap k =>
    rw [decode]
    rcases decodeCap_cases k with ⟨hlow, j, hj, -⟩ | ⟨hhigh, herr⟩
    · have hnot : ¬6 ≤ k.toNat := by omega
      simp [hj, hnot]
    · simp [herr, hhigh, eq_comm]

/-- Settles O4, by evaluating the decoder on each word. -/
theorem writtenOutWordsDecode : Obligations.WrittenOutWordsDecode :=
  ⟨rfl, rfl, rfl, rfl, rfl, rfl, rfl, rfl, rfl, rfl⟩

end Sys2Proof
end

