-- ==== Sys2Proof/Proofs/EvalBanks.lean ====
section
/-! Which slots an EVAL matches and keeps, and the bank it leaves (42_sprite_evaluate.md R140 to R146; 10_state.md
R24). -/

namespace Sys2Proof.Machine

open Sys2Proof

/-! ### The match test -/

theorem slotMatches_congr (h16 : Bool) {oam oam' : Memory} (t : Nat) {n : Slot}
    (hy : oamRead oam (4 * n.val) = oamRead oam' (4 * n.val)) : slotMatches h16 oam t n = slotMatches h16 oam' t n := by
  rw [slotMatches, slotMatches, hy]

/-- Settles O11: the interval is the match test itself, and the test reads nothing but the byte at `4n` (R141). -/
theorem slotMatchesExactlyItsInterval : Obligations.SlotMatchesExactlyItsInterval :=
  ⟨fun h16 oam s n => slotMatches_iff h16 oam (nextScanline s) n, fun h16 _ _ t _ hy => slotMatches_congr h16 t hy⟩

/-- Settles O12: the target scanlines of the visible ones end at 240, which such a slot lies below or just reaches
(R90). -/
theorem highSlotsAreHidden : Obligations.HighSlotsAreHidden := by
  intro h16 oam s n hs
  have hpos := spriteHeight_pos h16
  have hmatch := slotMatches_iff h16 oam (nextScanline s) n
  rw [nextScanline] at hmatch ⊢
  constructor
  · intro hhigh
    rw [Bool.eq_false_iff, ne_eq, hmatch]
    omega
  · intro hlast
    rw [hmatch, hlast]
    omega

/-! ### The kept slots -/

theorem slots_sorted : slots.Pairwise (· < ·) := List.pairwise_lt_finRange 64

theorem matchingSlots_sublist (s : State) (t : Nat) : (matchingSlots s t).Sublist slots := List.filter_sublist

theorem keptSlots_sublist (s : State) (t : Nat) : (keptSlots s t).Sublist slots := by
  unfold keptSlots
  split
  · exact matchingSlots_sublist s t
  · exact (List.take_sublist ..).trans (matchingSlots_sublist s t)

theorem keptSlots_length (s : State) (t : Nat) :
    (keptSlots s t).length =
      if s.bypass then (matchingSlots s t).length else min (matchingSlots s t).length 8 := by
  unfold keptSlots
  split
  · rfl
  · rw [List.length_take, Nat.min_comm]

/-- Settles O14: the flag that the pass leaves and the number of the kept slots (R142, R143). -/
theorem evalSetsOverflowAtTheNinthMatch : Obligations.EvalSetsOverflowAtTheNinthMatch := by
  intro s img sl h hs
  refine ⟨_, exec_eval_of_visible h hs, ?flag, ?bank⟩
  case flag => simp
  case bank => rw [State.setBanks_eb, List.length_map, keptSlots_length]

/-- Settles O16: each field of the state that EVAL answers is the old one, but for the banks and OVERFLOW (R27, R144).
-/
theorem evalHandsOverAndChangesNothingElse : Obligations.EvalHandsOverAndChangesNothingElse := fun _ _ _ h hs =>
  ⟨_, exec_eval_of_visible h hs, rfl, rfl, rfl, rfl, rfl, rfl, rfl, rfl, fun _ => rfl, rfl, fun _ _ => rfl, rfl, rfl,
    rfl, rfl, rfl, rfl, rfl, rfl, rfl, rfl⟩

/-- An EVAL that completes was one of a visible scanline. -/
theorem exec_eval_next {s t : State} {sl : Scanline} (h : exec (.eval sl) s = .next t) :
    ∃ img, s.rom = some img ∧ sl.toNat < 240 ∧
      t = s.setBanks ((keptSlots s (sl.toNat + 1)).map (decodeSlot s.sprH16 s.sprTable img s.oam)) s.eb (some s.sprH16)
        s.ebH16 (s.overflow || decide (9 ≤ (matchingSlots s (sl.toNat + 1)).length)) := by
  obtain ⟨img, hrom, hk⟩ := withImage_next h
  have hs : sl.toNat < 240 := by
    by_contra hs
    rw [if_neg hs] at hk
    cases hk
  rw [exec_eval_of_visible hrom hs] at h
  exact ⟨img, hrom, hs, (next_inj.1 h).symm⟩

/-! ### The order of the bank -/

/-- The records that a decode of rising slots gives are in ascending OAM order. -/
theorem map_decodeSlot_ascending (h16 tbl : Bool) (img : RomImage) (oam : Memory) {ns : List Slot}
    (hns : ns.Pairwise (· < ·)) : (ns.map (decodeSlot h16 tbl img oam)).Pairwise (fun p q => p.idx < q.idx) :=
  List.pairwise_map.2 hns

/-- In a bank in ascending OAM order a record of slot 0 is the first (R24). -/
theorem head?_eq_of_idx_zero {bank : List Sprite} (hasc : bank.Pairwise (fun p q => p.idx < q.idx)) {sp : Sprite}
    (hsp : sp ∈ bank) (hzero : sp.idx.val = 0) : bank.head? = some sp := by
  cases bank with
  | nil => cases hsp
  | cons first rest =>
    rcases List.mem_cons.1 hsp with rfl | hrest
    · rfl
    · have hlt : first.idx.val < sp.idx.val := List.rel_of_pairwise_cons hasc hrest
      omega

/-- Settles O17: the kept slots are visited in rising order, so their records stand in it (R24, R142). -/
theorem evalBankIsAscending : Obligations.EvalBankIsAscending := by
  intro s t sl h
  obtain ⟨img, -, -, rfl⟩ := exec_eval_next h
  have hasc := map_decodeSlot_ascending s.sprH16 s.sprTable img s.oam
    (slots_sorted.sublist (keptSlots_sublist s (sl.toNat + 1)))
  exact ⟨hasc, fun _ => head?_eq_of_idx_zero hasc⟩

/-! ### Two EVALs in a row -/

/-- Settles O20: the second EVAL hands over the bank that the first one filled, and neither pass reads EB (R144,
R220). -/
theorem twoEvalsLoseTheWaitingBank : Obligations.TwoEvalsLoseTheWaitingBank := by
  intro s t u a b hfirst hsecond
  obtain ⟨img, hrom, ha, rfl⟩ := exec_eval_next hfirst
  obtain ⟨img', hrom', hb, rfl⟩ := exec_eval_next hsecond
  refine ⟨rfl, fun bank => ?_⟩
  have hfirst' := exec_eval_of_visible (s := { s with eb := bank }) hrom ha
  exact ⟨_, _, hfirst', exec_eval_of_visible hrom' hb, rfl, rfl⟩

/-! ### What the scan does not visit -/

/-- The entries up to `k` stand first in a rising list. -/
theorem filter_le_prefix {ns : List Slot} (hns : ns.Pairwise (· < ·)) (k : Slot) : ns.filter (· ≤ k) <+: ns := by
  induction ns with
  | nil => exact List.nil_prefix
  | cons n ns ih =>
    obtain ⟨hn, hns⟩ := List.pairwise_cons.1 hns
    by_cases hk : n ≤ k
    · rw [List.filter_cons_of_pos (by simpa using hk)]
      exact (List.prefix_cons_inj n).2 (ih hns)
    · have hnone : (n :: ns).filter (· ≤ k) = [] := by
        refine List.filter_eq_nil_iff.2 fun m hm => ?_
        rcases List.mem_cons.1 hm with rfl | hm
        · simpa using hk
        · simpa using (not_le.1 hk).trans (hn m hm)
      rw [hnone]
      exact List.nil_prefix

/-- Where nine slots up to `k` stand in a rising list, the first eight of them lie below `k`. -/
theorem lt_of_mem_take_of_nine_le {ns : List Slot} (hns : ns.Pairwise (· < ·)) {k : Slot} (hk : ∀ n ∈ ns, n ≤ k)
    (hnine : 9 ≤ ns.length) {n : Slot} (hn : n ∈ ns.take 8) : n < k := by
  obtain ⟨i, hi, rfl⟩ := List.mem_take_iff_getElem.1 hn
  have hlt : ns[i] < ns[8] := List.pairwise_iff_getElem.1 hns i 8 (by omega) (by omega) (by omega)
  exact hlt.trans_le (hk _ (List.getElem_mem _))

theorem decodeSlot_congr (h16 tbl : Bool) (img : RomImage) {oam oam' : Memory} {n : Slot}
    (h : ∀ k < 4, oamRead oam (4 * n.val + k) = oamRead oam' (4 * n.val + k)) :
    decodeSlot h16 tbl img oam n = decodeSlot h16 tbl img oam' n := by
  have hentry : oamEntry oam n = oamEntry oam' n := by
    rw [oamEntry, oamEntry, h 1 (by omega), h 2 (by omega), h 3 (by omega), ← Nat.add_zero (4 * n.val), h 0 (by omega)]
  rw [decodeSlot, decodeSlot, hentry]

/-- Two memories with the same first bytes up to slot `k` have the same matches up to there. -/
theorem matchingSlots_filter_le_congr {s s' : State} (hh16 : s.sprH16 = s'.sprH16) {k : Slot}
    (hagree : ∀ n ≤ k, oamRead s.oam (4 * n.val) = oamRead s'.oam (4 * n.val)) (t : Nat) :
    (matchingSlots s t).filter (· ≤ k) = (matchingSlots s' t).filter (· ≤ k) := by
  simp only [matchingSlots, List.filter_filter]
  refine List.filter_congr fun n _ => Bool.eq_iff_iff.2 ?_
  simp only [Bool.and_eq_true, decide_eq_true_eq]
  refine and_congr_right fun hnk => ?_
  rw [hh16, slotMatches_congr _ _ (hagree n hnk)]

theorem take_eq_take_of_prefix {α : Type} {p l : List α} (hp : p <+: l) {n : Nat} (hn : n ≤ p.length) :
    l.take n = p.take n := by
  obtain ⟨r, rfl⟩ := hp
  exact List.take_append_of_le_length hn

/-- Where nine slots up to `k` match without bypass, the first eight of them are the ones kept, and there is a ninth
match. -/
theorem keptSlots_eq_of_nine_le {s : State} {t : Nat} {k : Slot} (hbypass : s.bypass = false)
    (hnine : 9 ≤ ((matchingSlots s t).filter (· ≤ k)).length) :
    keptSlots s t = ((matchingSlots s t).filter (· ≤ k)).take 8 ∧ 9 ≤ (matchingSlots s t).length := by
  have hprefix := filter_le_prefix (slots_sorted.sublist (matchingSlots_sublist s t)) k
  refine ⟨?_, hnine.trans hprefix.length_le⟩
  rw [keptSlots, hbypass]
  exact take_eq_take_of_prefix hprefix (by omega)

/-- Settles O15: the matches up to slot `k` are the same in both memories and stand first among all matches, so the
first eight, which lie below `k`, and the presence of a ninth are the same too (R143, D15). -/
theorem scanStopsAtTheNinthMatch : Obligations.ScanStopsAtTheNinthMatch := by
  intro s img sl m k hrom hs hbypass hagree hnine
  have hsame : (matchingSlots { s with oam := m } (sl.toNat + 1)).filter (· ≤ k) =
      (matchingSlots s (sl.toNat + 1)).filter (· ≤ k) := by
    refine matchingSlots_filter_le_congr (s := { s with oam := m }) (s' := s) rfl (fun n hn => hagree (4 * n.val) ?_) _
    have hle : n.val ≤ k.val := hn
    omega
  obtain ⟨hkept, hninth⟩ := keptSlots_eq_of_nine_le hbypass hnine
  obtain ⟨hkept', hninth'⟩ := keptSlots_eq_of_nine_le (s := { s with oam := m }) hbypass (hsame ▸ hnine)
  have hdecode : (keptSlots s (sl.toNat + 1)).map (decodeSlot s.sprH16 s.sprTable img m) =
      (keptSlots s (sl.toNat + 1)).map (decodeSlot s.sprH16 s.sprTable img s.oam) := by
    refine List.map_congr_left fun n hn => decodeSlot_congr _ _ _ fun b hb => hagree _ ?_
    have hsorted := (slots_sorted.sublist (matchingSlots_sublist s (sl.toNat + 1))).sublist
      (List.filter_sublist (p := (· ≤ k)))
    have hupTo : ∀ n ∈ (matchingSlots s (sl.toNat + 1)).filter (· ≤ k), n ≤ k := fun n hn => by
      simpa using (List.mem_filter.1 hn).2
    have hlt : n.val < k.val := lt_of_mem_take_of_nine_le hsorted hupTo hnine (hkept ▸ hn)
    omega
  have heval := exec_eval_of_visible hrom hs
  have heval' := exec_eval_of_visible (s := { s with oam := m }) hrom hs
  rw [decide_eq_true hninth] at heval
  rw [hkept', hsame, ← hkept, decide_eq_true hninth', hdecode] at heval'
  exact ⟨_, _, heval, heval'⟩

end Sys2Proof.Machine
end

