-- ==== Sys2Proof/Proofs/TileDecodes.lean ====
section
/-! The pattern addresses and fetches of a decode, the record that it gives, and what the record depends on
(30_encoding.md R81 to R84; 41_sprite_decode.md R120 to R125). -/

namespace Sys2Proof.Machine

open Sys2Proof

/-- A bit of a word as a number. -/
theorem getLsbD_toNat {n : Nat} (w : BitVec n) (i : Nat) : (w.getLsbD i).toNat = w.toNat / 2 ^ i % 2 :=
  Nat.toNat_testBit ..

theorem getLsbD_zero_toNat {n : Nat} (w : BitVec n) : (w.getLsbD 0).toNat = w.toNat % 2 := by
  rw [getLsbD_toNat, Nat.pow_zero, Nat.div_one]

/-! ### Pattern addresses -/

theorem patternAddr8_eq (tbl : Bool) (tile : Byte) (r : Nat) :
    patternAddr8 tbl tile r = 0x1000 * tbl.toNat + 16 * tile.toNat + r := rfl

theorem patternAddr16_eq (tile : Byte) (r : Nat) :
    patternAddr16 tile r = 0x1000 * (tile.toNat % 2) +
      16 * (tile.toNat - tile.toNat % 2 + (if r ≥ 8 then 1 else 0)) + r % 8 := by
  rw [patternAddr16, tile16, tableBase, getLsbD_zero_toNat]

/-- Settles O5: a joined word is the sum of its fields at their places, and so is each address (R83, R84). -/
theorem patternAddressesAreConcatenations : Obligations.PatternAddressesAreConcatenations := by
  constructor
  · intro tbl tile r
    simp only [patternAddr8_eq, toNat_append_eq_add, BitVec.toNat_ofBool, BitVec.toNat_ofNat]
    omega
  · intro tile r
    simp only [patternAddr16_eq, toNat_append_eq_add, BitVec.toNat_ofBool, BitVec.toNat_ofNat, BitVec.extractLsb'_toNat,
      Nat.shiftRight_eq_div_pow, getLsbD_zero_toNat]
    split <;> omega

/-- Both plane bytes of a row of the sprite lie in the pattern window (R54). -/
theorem patternAddr_planes_le (h16 tbl : Bool) (tile : Byte) {r : Nat} (hr : r < spriteHeight h16) :
    patternAddr h16 tbl tile r + 8 ≤ 0x1FFF := by
  cases h16 with
  | false =>
    have hr8 : r < 8 := hr
    have htbl := tbl.toNat_le
    have haddr : patternAddr false tbl tile r = _ := patternAddr8_eq tbl tile r
    omega
  | true =>
    have haddr : patternAddr true tbl tile r = _ := patternAddr16_eq tile r
    split at haddr <;> omega

/-! ### The order of the fetches -/

section Pairs

variable {α : Type} (f g : Nat → α) (n : Nat)

theorem flatMap_pair_length : ((List.range n).flatMap fun k => [f k, g k]).length = 2 * n := by
  simp [List.length_flatMap, Nat.mul_comm]

/-- A list written in pairs holds the pair of `k` at `2k` and `2k + 1`. -/
theorem flatMap_pair_getElem? {k : Nat} (hk : k < n) :
    ((List.range n).flatMap fun k => [f k, g k])[2 * k]? = some (f k) ∧
      ((List.range n).flatMap fun k => [f k, g k])[2 * k + 1]? = some (g k) := by
  induction n with
  | zero => omega
  | succ n ih =>
    rw [List.range_succ, List.flatMap_append]
    have hlen := flatMap_pair_length f g n
    by_cases hlast : k = n
    · subst hlast
      rw [List.getElem?_append_right hlen.le, List.getElem?_append_right (by omega), hlen, Nat.sub_self,
        Nat.add_sub_cancel_left]
      exact ⟨rfl, rfl⟩
    · rw [List.getElem?_append_left (by omega), List.getElem?_append_left (by omega)]
      exact ih (by omega)

end Pairs

theorem mem_fetchSequence {h16 tbl : Bool} {tile : Byte} {a : Nat} :
    a ∈ fetchSequence h16 tbl tile ↔
      ∃ r < spriteHeight h16, a = patternAddr h16 tbl tile r ∨ a = patternAddr h16 tbl tile r + 8 := by
  simp [fetchSequence]

theorem le_of_mem_fetchSequence {h16 tbl : Bool} {tile : Byte} {a : Nat} (ha : a ∈ fetchSequence h16 tbl tile) :
    a ≤ 0x1FFF := by
  obtain ⟨r, hr, rfl | rfl⟩ := mem_fetchSequence.1 ha
  · exact (Nat.le_add_right ..).trans (patternAddr_planes_le h16 tbl tile hr)
  · exact patternAddr_planes_le h16 tbl tile hr

/-- Settles O6: two fetches a row in the order of the rows, each at a plane byte of a row of the sprite (R54, R125).
-/
theorem fetchesStayInThePatternWindow : Obligations.FetchesStayInThePatternWindow := fun _ _ _ =>
  ⟨flatMap_pair_length .., fun _ => le_of_mem_fetchSequence, fun _ hr => flatMap_pair_getElem? _ _ _ hr⟩

/-- A fetch of a decode is the byte of CHR at its address (R51). -/
theorem chrFetch_of_mem (img : RomImage) {h16 tbl : Bool} {tile : Byte} {a : Nat}
    (ha : a ∈ fetchSequence h16 tbl tile) : chrFetch img a = romByte img.chr a := by
  have hle := le_of_mem_fetchSequence ha
  rw [chrFetch, chrByte, BitVec.toNat_ofNat, Nat.mod_eq_of_lt (by omega)]

/-- A pixel of a decoded grid: the bits of its column in the two plane bytes of its row (R120, R121, R122). -/
theorem decodeGrid_pixel_romByte (h16 tbl : Bool) (img : RomImage) (tile : Byte) {c r : Nat} (hc : c < 8)
    (hr : r < spriteHeight h16) :
    gridPixel (decodeGrid h16 tbl img tile) c r =
      unpack (romByte img.chr (patternAddr h16 tbl tile r)) (romByte img.chr (patternAddr h16 tbl tile r + 8)) c := by
  rw [decodeGrid_pixel h16 tbl img tile hc hr, chrFetch_of_mem img (mem_fetchSequence.2 ⟨r, hr, .inl rfl⟩),
    chrFetch_of_mem img (mem_fetchSequence.2 ⟨r, hr, .inr rfl⟩)]

/-- Settles O26: the grid is the only part of the record that pattern data enters, and each pixel of it comes from two
addresses of the fetch sequence (R61, R125). -/
theorem decodeReadsOnlyItsFetchSequence : Obligations.DecodeReadsOnlyItsFetchSequence := by
  intro h16 tbl img img' n e hsame
  have hgrid : decodeGrid h16 tbl img e.tile = decodeGrid h16 tbl img' e.tile := by
    refine grid_ext (decodeGrid_wf ..) (decodeGrid_wf ..) fun c hc r hr => ?_
    rw [decodeGrid_pixel_romByte _ _ _ _ hc hr, decodeGrid_pixel_romByte _ _ _ _ hc hr,
      hsame _ (mem_fetchSequence.2 ⟨r, hr, .inl rfl⟩), hsame _ (mem_fetchSequence.2 ⟨r, hr, .inr rfl⟩)]
  rw [decodeRecord, decodeRecord, hgrid]

/-! ### The two decode operations -/

section HoldsImage

variable {s : State} {img : RomImage} (h : s.rom = some img)
include h

theorem exec_decode8_of_image (n : Slot) (e : OamEntry) :
    exec (.decode8 n e) s = .next (s.setMade (.record (decodeRecord false s.sprTable img n e))) := withImage_some h _

theorem exec_decode16_of_image (n : Slot) (e : OamEntry) :
    exec (.decode16 n e) s = .next (s.setMade (.record (decodeRecord true s.sprTable img n e))) := withImage_some h _

end HoldsImage

/-- Settles O21: the record of an 8-row decode, whose table is SPR_TABLE's (R120). -/
theorem decodeEightReturnsTheRecord : Obligations.DecodeEightReturnsTheRecord := by
  intro s img n e h
  obtain ⟨hrows, hcols⟩ := decodeGrid_wf false s.sprTable img e.tile
  exact ⟨_, exec_decode8_of_image h n e, rfl, rfl, rfl, hrows, hcols,
    fun c hc r hr => decodeGrid_pixel_romByte false s.sprTable img e.tile hc hr⟩

/-- Settles O22: the record of a 16-row decode, whose table is bit 0 of the tile id, so that SPR_TABLE is not read
(R121). -/
theorem decodeSixteenReturnsTheRecord : Obligations.DecodeSixteenReturnsTheRecord := by
  intro s img n e h
  obtain ⟨hrows, hcols⟩ := decodeGrid_wf true s.sprTable img e.tile
  refine ⟨_, exec_decode16_of_image h n e, fun tbl => exec_decode16_of_image (s := { s with sprTable := tbl }) h n e,
    rfl, rfl, rfl, hrows, hcols, fun c hc r hr => ?_⟩
  rw [← patternAddr16_eq]
  exact decodeGrid_pixel_romByte true s.sprTable img e.tile hc hr

/-- Settles O19: EVAL keeps the decode of the slot's four bytes, which is what the operation of the sampled height
gives (R124, R140). -/
theorem evalKeepsTheRecordsThatDecodeReturns : Obligations.EvalKeepsTheRecordsThatDecodeReturns := by
  intro s img sl n h hs hn
  have hdecode : exec (if s.sprH16 then .decode16 n (oamEntry s.oam n) else .decode8 n (oamEntry s.oam n)) s =
      .next (s.setMade (.record (decodeSlot s.sprH16 s.sprTable img s.oam n))) := by
    cases hh16 : s.sprH16 with
    | false => exact exec_decode8_of_image h n _
    | true => exact exec_decode16_of_image h n _
  exact ⟨_, _, _, exec_eval_of_visible h hs, hdecode, rfl, List.mem_map_of_mem hn, rfl⟩

/-! ### UNPACK, and byte 2 of an entry -/

/-- Settles O23: the pixel joins the column's two plane bits, the high plane's above the low plane's (R122). -/
theorem unpackCombinesThePlanes : Obligations.UnpackCombinesThePlanes := by
  intro lo hi c _
  rw [unpack, toNat_append_eq_add, BitVec.toNat_ofBool, BitVec.toNat_ofBool, getLsbD_toNat, getLsbD_toNat, columnBit,
    Nat.pow_one, Nat.mul_comm]

/-- The fields of a record that come from byte 2 of its entry (R81). -/
theorem decodeRecord_attr (h16 tbl : Bool) (img : RomImage) (n : Slot) (e : OamEntry) :
    (decodeRecord h16 tbl img n e).pal.toNat = e.attr.toNat % 4 ∧
      (decodeRecord h16 tbl img n e).behind.toNat = e.attr.toNat / 32 % 2 ∧
      (decodeRecord h16 tbl img n e).fh.toNat = e.attr.toNat / 64 % 2 ∧
      (decodeRecord h16 tbl img n e).fv.toNat = e.attr.toNat / 128 % 2 :=
  ⟨BitVec.extractLsb'_toNat .., getLsbD_toNat e.attr 5, getLsbD_toNat e.attr 6, getLsbD_toNat e.attr 7⟩

/-- Settles O24: both decodes build the record whose fields R81 lays out. -/
theorem attributeByteLayout : Obligations.AttributeByteLayout := by
  intro s img n e h i hi
  simp only [List.mem_cons, List.not_mem_nil, or_false] at hi
  rcases hi with rfl | rfl
  · exact ⟨_, exec_decode8_of_image h n e, decodeRecord_attr ..⟩
  · exact ⟨_, exec_decode16_of_image h n e, decodeRecord_attr ..⟩

/-- A record depends on byte 2 of its entry through bits 0, 1, 5, 6 and 7 only (R81, R82). -/
theorem decodeRecord_attr_congr (h16 tbl : Bool) (img : RomImage) (n : Slot) (e : OamEntry) {a : Byte}
    (ha : ∀ b < 8, b ∉ [2, 3, 4] → a.getLsbD b = e.attr.getLsbD b) :
    decodeRecord h16 tbl img n { e with attr := a } = decodeRecord h16 tbl img n e := by
  have hpal : a.extractLsb' 0 2 = e.attr.extractLsb' 0 2 := by
    refine BitVec.eq_of_getLsbD_eq fun i hi => ?_
    have hbit := ha i (by omega) (by simp; omega)
    simpa [BitVec.getLsbD_extractLsb', hi] using hbit
  simp only [decodeRecord, hpal, ha 5 (by decide) (by decide), ha 6 (by decide) (by decide), ha 7 (by decide) (by decide)]

/-- So does the record of a slot depend on byte 2 of the slot, and on all of its other bytes. -/
theorem decodeSlot_attr_congr (h16 tbl : Bool) (img : RomImage) {oam oam' : Memory} {n : Slot}
    (hbytes : ∀ k < 4, k ≠ 2 → oamRead oam (4 * n.val + k) = oamRead oam' (4 * n.val + k))
    (hbits : ∀ b < 8, b ∉ [2, 3, 4] →
      (oamRead oam (4 * n.val + 2)).getLsbD b = (oamRead oam' (4 * n.val + 2)).getLsbD b) :
    decodeSlot h16 tbl img oam n = decodeSlot h16 tbl img oam' n := by
  have hy : oamRead oam (4 * n.val) = oamRead oam' (4 * n.val) := hbytes 0 (by decide) (by decide)
  have htile := hbytes 1 (by decide) (by decide)
  have hx := hbytes 3 (by decide) (by decide)
  have hentry : oamEntry oam n = { oamEntry oam' n with attr := oamRead oam (4 * n.val + 2) } := by
    simp only [oamEntry, hy, htile, hx]
  rw [decodeSlot, hentry]
  exact decodeRecord_attr_congr _ _ _ _ _ hbits

/-- Settles O25: neither decode's record depends on the bits; an EVAL matches on byte 0 alone, and what it keeps are
such records (R82). -/
theorem unassignedAttributeBitsAreIgnored : Obligations.UnassignedAttributeBitsAreIgnored := by
  constructor
  · intro s n e a ha
    cases hrom : s.rom with
    | none => exact ⟨(withImage_none hrom _).trans (withImage_none hrom _).symm,
        (withImage_none hrom _).trans (withImage_none hrom _).symm⟩
    | some img =>
      simp only [exec_decode8_of_image hrom, exec_decode16_of_image hrom, decodeRecord_attr_congr _ _ _ _ _ ha, and_self]
  · intro s img sl m hrom hs hbytes hbits
    have hmatching : matchingSlots { s with oam := m } (sl.toNat + 1) = matchingSlots s (sl.toNat + 1) :=
      List.filter_congr fun n _ => slotMatches_congr _ _ (hbytes n 0 (by decide) (by decide))
    have hkept : keptSlots { s with oam := m } (sl.toNat + 1) = keptSlots s (sl.toNat + 1) := by
      simp only [keptSlots, hmatching]
    have heval' := exec_eval_of_visible (s := { s with oam := m }) hrom hs
    refine ⟨_, _, exec_eval_of_visible hrom hs, heval', ?bank, rfl, ?flag⟩
    case bank =>
      simp only [State.setBanks_eb, hkept]
      exact List.map_congr_left fun n _ => decodeSlot_attr_congr _ _ _ (hbytes n) (hbits n)
    case flag => simp only [State.setBanks_overflow, hmatching]

/-! ### FLIP -/

theorem exec_flip_of_record {s : State} {img : RomImage} (h : s.rom = some img) {i : BankIndex} {sp : Sprite}
    (hsp : s.rb[i.val]? = some sp) (fv fh : Bool) :
    exec (.flip i fv fh) s =
      if sp.grid.length = spriteHeight s.sprH16 then
        .next (s.setMade (.grid (flipGrid sp.grid fh fv (spriteHeight s.sprH16))))
      else .refused .heightMismatch := by
  have hexec : exec (.flip i fv fh) s = _ := withImage_some h _
  simpa only [hsp] using hexec

/-- Settles O27, from the place of each pixel in a flip (R123). -/
theorem flipMapsColumnsAndRows : Obligations.FlipMapsColumnsAndRows := by
  intro s img i sp fv fh h hsp hgrid
  obtain ⟨hrows, hcols⟩ := flipGrid_wf sp.grid fh fv (spriteHeight s.sprH16)
  refine ⟨_, (exec_flip_of_record h hsp fv fh).trans (if_pos hgrid.1), hrows, hcols,
    fun c hc r hr => flipGrid_pixel sp.grid fh fv hc hr, ?_⟩
  rintro rfl rfl
  exact flipGrid_of_no_flag hgrid

end Sys2Proof.Machine
end

