-- ==== Sys2Proof/Proofs/RowCompositing.lean ====
section
/-! What RENDER leaves in FB and in ZEROHIT (43_sprite_render.md R160 to R174): at one column, after one record, and
after the whole bank. -/

namespace Sys2Proof.Machine

open Sys2Proof

/-! ### One column -/

theorem columnShown_iff (left : Bool) (sp : Sprite) (g : Grid) (row c : Nat) :
    columnShown left sp g row c = true ↔
      sp.x.toNat + c ≤ 255 ∧ (left = true ∨ 8 ≤ sp.x.toNat + c) ∧ gridPixel g c row ≠ 0 := by
  simp only [columnShown, Bool.and_eq_true, Bool.or_eq_true, decide_eq_true_eq, bne_iff_ne, and_assoc]
  rfl

theorem bgtOpaque_iff (m : List (Nat × Bool)) (x y : Nat) : bgtOpaque m x y = true ↔ bgtRead m x y = some false :=
  beq_iff_eq

/-- A column that a test of R174 before the zero hit skips changes nothing. -/
theorem renderColumn_of_not_shown {left : Bool} {sp : Sprite} {g : Grid} {row c : Nat}
    (hskip : ¬columnShown left sp g row c = true) (sl : Nat) (s : State) : renderColumn sl left sp g row s c = s := by
  rw [Bool.not_eq_true] at hskip
  simp [renderColumn_cases, hskip]

/-- A pixel that passes all tests of R174 is written in its colour (R168). -/
theorem renderColumn_fb_of_drawn {left : Bool} {sp : Sprite} {g : Grid} {row c sl : Nat} {s : State}
    (hshown : columnShown left sp g row c = true)
    (hfront : sp.behind = false ∨ bgtOpaque s.bgt (sp.x.toNat + c) sl = false) :
    fbRead (renderColumn sl left sp g row s c).fb (sp.x.toNat + c) sl =
      some (spriteColour s.palEpoch sp.pal (gridPixel g c row)) := by
  have hdrawn : (columnShown left sp g row c && !(sp.behind && bgtOpaque s.bgt (frameX sp.x c) sl)) = true := by
    rw [hshown, Bool.true_and, Bool.not_eq_true', Bool.and_eq_false_iff]
    exact hfront
  rw [renderColumn_cases]
  simp only [hdrawn, if_true]
  exact fbRead_write_same ..

/-- Settles O46, from what a column does when it is skipped, when it is drawn, and when only the priority test holds
it back (R165, R167, R168). -/
theorem transparentAndBehindPixelsAreNotDrawn : Obligations.TransparentAndBehindPixelsAreNotDrawn := by
  intro sl left sp g row s c
  refine ⟨fun htransparent => ?_, fun hbehind hopaque => ?_, fun hright hleft hpixel hfront => ?_⟩
  · refine renderColumn_of_not_shown (fun hshown => ?_) sl s
    exact ((columnShown_iff ..).1 hshown).2.2 htransparent
  · have hbg : bgtOpaque s.bgt (frameX sp.x c) sl = true := (bgtOpaque_iff ..).2 hopaque
    simp [renderColumn_cases, hbehind, hbg]
  · refine renderColumn_fb_of_drawn ((columnShown_iff ..).2 ⟨hright, hleft, hpixel⟩) (hfront.imp_right fun hbg => ?_)
    rw [bgtOpaque, hbg]
    rfl

/-! ### The pixels of a record -/

/-- The pixel of a flipped grid's column is the one that the claims read through the flips (R126, R161, R162). -/
theorem gridPixel_flipGrid_eq_pixelAt (sl : Nat) (sp : Sprite) {h c : Nat} (hh : 0 < h) (hc : c < 8) :
    gridPixel (flipGrid sp.grid sp.fh sp.fv h) c (spriteRow sl sp.y h) = pixelAt h sl sp (sp.x.toNat + c) := by
  have hin : sp.x.toNat ≤ sp.x.toNat + c ∧ sp.x.toNat + c < sp.x.toNat + 8 := by omega
  rw [flipGrid_pixel _ _ _ hc (spriteRow_lt sl sp.y hh), pixelAt, if_pos hin, Nat.add_sub_cancel_left]

theorem columnShown_eq_shownAt (s : State) (sl : Nat) (sp : Sprite) {c : Nat} (hc : c < 8) :
    columnShown s.showLeft sp (flipGrid sp.grid sp.fh sp.fv (spriteHeight s.sprH16))
      (spriteRow sl sp.y (spriteHeight s.sprH16)) c = shownAt s sl (sp.x.toNat + c) sp := by
  rw [columnShown, gridPixel_flipGrid_eq_pixelAt sl sp (spriteHeight_pos _) hc]
  rfl

/-- A record shows nothing outside its eight columns. -/
theorem exists_column_of_shownAt {s : State} {sl x : Nat} {sp : Sprite} (hshown : shownAt s sl x sp = true) :
    x ≤ 255 ∧ ∃ c < 8, sp.x.toNat + c = x := by
  simp only [shownAt, Bool.and_eq_true, decide_eq_true_eq, bne_iff_ne] at hshown
  obtain ⟨⟨hright, -⟩, hpixel⟩ := hshown
  refine ⟨hright, x - sp.x.toNat, ?_⟩
  by_cases hin : sp.x.toNat ≤ x ∧ x < sp.x.toNat + 8
  · omega
  · exact absurd (if_neg hin) hpixel

theorem shownAt_of_drawsAt {s : State} {sl x : Nat} {sp : Sprite} (hdraws : drawsAt s sl x sp = true) :
    shownAt s sl x sp = true := by
  rw [drawsAt, Bool.and_eq_true] at hdraws
  exact hdraws.1

theorem shownAt_of_hitsAt {s : State} {sl x : Nat} {sp : Sprite} (hhits : hitsAt s sl sp x = true) :
    shownAt s sl x sp = true := by
  rw [hitsAt, Bool.and_eq_true] at hhits
  exact hhits.1

/-- The whole condition of the zero hit at a column (R166). -/
theorem hitsAt_column_iff (s : State) (sl : Nat) (sp : Sprite) {c : Nat} (hc : c < 8) :
    hitsAt s sl sp (sp.x.toNat + c) = true ↔
      sp.idx.val = 0 ∧ sp.x.toNat + c ≤ 255 ∧ (s.showLeft = true ∨ 8 ≤ sp.x.toNat + c) ∧
        gridPixel (flipGrid sp.grid sp.fh sp.fv (spriteHeight s.sprH16)) c
          (spriteRow sl sp.y (spriteHeight s.sprH16)) ≠ 0 ∧
        bgtRead s.bgt (sp.x.toNat + c) sl = some false := by
  rw [hitsAt, ← columnShown_eq_shownAt s sl sp hc, Bool.and_eq_true, Bool.and_eq_true, columnShown_iff, bgtOpaque_iff,
    decide_eq_true_iff]
  tauto

/-! ### One record -/

theorem renderSprite_fb {s t : State} (hframe : RenderFrame s t) (sl : Nat) (sp : Sprite) {x : Nat} (hx : x < 256) :
    fbRead (renderSprite sl s.showLeft (spriteHeight s.sprH16) t sp).fb x sl =
      if drawsAt s sl x sp then some (colourAt s sl x sp) else fbRead t.fb x sl := by
  rw [renderSprite, foldl_renderColumn_fb _ _ _ _ _ _ _ hx, hframe.bgt, hframe.palEpoch]
  by_cases hin : ∃ c < 8, sp.x.toNat + c = x
  · obtain ⟨c, hc, rfl⟩ := hin
    rw [Nat.add_sub_cancel_left, columnShown_eq_shownAt s sl sp hc,
      gridPixel_flipGrid_eq_pixelAt sl sp (spriteHeight_pos _) hc]
    simp [drawsAt, colourAt, hc]
  · have hnone : ¬drawsAt s sl x sp = true := fun hdraws =>
      hin (exists_column_of_shownAt (shownAt_of_drawsAt hdraws)).2
    rw [if_neg hnone, if_neg]
    rintro ⟨hle, hmem, -⟩
    exact hin ⟨x - sp.x.toNat, List.mem_range.1 hmem, by omega⟩

theorem renderSprite_zeroHit {s t : State} (hframe : RenderFrame s t) (sl : Nat) (sp : Sprite) :
    (renderSprite sl s.showLeft (spriteHeight s.sprH16) t sp).zeroHit =
      (t.zeroHit || (List.range 8).any fun c => hitsAt s sl sp (sp.x.toNat + c)) := by
  rw [renderSprite, foldl_renderColumn_zeroHit, hframe.bgt]
  congr 1
  rw [Bool.eq_iff_iff]
  simp only [List.any_eq_true, List.mem_range]
  refine exists_congr fun c => and_congr_right fun hc => ?_
  rw [columnShown_eq_shownAt s sl sp hc]
  rfl

theorem renderSprite_other_row (sl : Nat) (left : Bool) (h : Nat) (s : State) (sp : Sprite) {x y : Nat} (hx : x < 256)
    (hy : y ≠ sl) : fbRead (renderSprite sl left h s sp).fb x y = fbRead s.fb x y :=
  List.foldlRecOn (motive := fun t : State => fbRead t.fb x y = fbRead s.fb x y) _ _ rfl fun t ht c _ =>
    (renderColumn_other_row sl left sp _ _ t c hx hy).trans ht

/-! ### The whole bank -/

/-- An element of the row after the records of a bank, from the last to the first: the first record that draws there
has the last word (R169). -/
theorem foldl_renderSprite_fb (s : State) (sl : Nat) (bank : List Sprite) {x : Nat} (hx : x < 256) :
    fbRead (bank.reverse.foldl (renderSprite sl s.showLeft (spriteHeight s.sprH16)) s).fb x sl =
      ((bank.find? (drawsAt s sl x)).map (colourAt s sl x)).or (fbRead s.fb x sl) := by
  induction bank with
  | nil => rfl
  | cons sp bank ih =>
    rw [List.reverse_cons, List.foldl_append, List.foldl_cons, List.foldl_nil,
      renderSprite_fb (foldl_frame _ (fun s sp => renderSprite_frame _ _ _ s sp) _ s) sl sp hx, ih, List.find?_cons]
    cases drawsAt s sl x sp <;> rfl

theorem renderBank_fb (s : State) (sl : Nat) {x : Nat} (hx : x < 256) :
    fbRead (renderBank sl s.showLeft (spriteHeight s.sprH16) s).fb x sl =
      ((s.rb.find? (drawsAt s sl x)).map (colourAt s sl x)).or (fbRead s.fb x sl) :=
  foldl_renderSprite_fb s sl s.rb hx

/-- Where no record draws, RENDER leaves the row as it was. -/
theorem renderBank_fb_of_not_drawn {s : State} {sl x : Nat} (hx : x < 256)
    (hnone : ∀ sp ∈ s.rb, ¬drawsAt s sl x sp = true) :
    fbRead (renderBank sl s.showLeft (spriteHeight s.sprH16) s).fb x sl = fbRead s.fb x sl := by
  rw [renderBank_fb s sl hx, List.find?_eq_none.2 hnone]
  rfl

theorem renderBank_other_row (sl : Nat) (left : Bool) (h : Nat) (s : State) {x y : Nat} (hx : x < 256) (hy : y ≠ sl) :
    fbRead (renderBank sl left h s).fb x y = fbRead s.fb x y :=
  List.foldlRecOn (motive := fun t : State => fbRead t.fb x y = fbRead s.fb x y) _ _ rfl fun t ht sp _ =>
    (renderSprite_other_row sl left h t sp hx hy).trans ht

theorem foldl_renderSprite_zeroHit {s t : State} (hframe : RenderFrame s t) (sl : Nat) (sps : List Sprite) :
    (sps.foldl (renderSprite sl s.showLeft (spriteHeight s.sprH16)) t).zeroHit =
      (t.zeroHit || sps.any fun sp => (List.range 8).any fun c => hitsAt s sl sp (sp.x.toNat + c)) := by
  induction sps generalizing t with
  | nil => simp
  | cons sp sps ih =>
    rw [List.foldl_cons, ih (hframe.trans (renderSprite_frame ..)), renderSprite_zeroHit hframe, List.any_cons,
      Bool.or_assoc]

/-- ZEROHIT after RENDER: what it was, or a hit of one of the records at one of its columns (R166). -/
theorem renderBank_zeroHit_iff (s : State) (sl : Nat) :
    (renderBank sl s.showLeft (spriteHeight s.sprH16) s).zeroHit = true ↔
      s.zeroHit = true ∨ ∃ sp ∈ s.rb, ∃ c < 8, hitsAt s sl sp (sp.x.toNat + c) = true := by
  rw [renderBank, foldl_renderSprite_zeroHit (.refl s)]
  simp

/-! ### RENDER -/

theorem exec_render_eq (sl : Scanline) (s : State) : exec (.render sl) s = execRender sl s := rfl

/-- RENDER below the display, or a display row composed of the whole bank. -/
theorem exec_render_next {s t : State} {sl : Scanline} (h : exec (.render sl) s = .next t) :
    (240 ≤ sl.toNat ∧ t = s) ∨
      (sl.toNat < 240 ∧ heightsAgree s ∧ backgroundDone s sl.toNat ∧
        t = renderBank sl.toNat s.showLeft (spriteHeight s.sprH16) s) := by
  obtain ⟨img, hrom, -⟩ := withImage_next h
  rw [exec_render_eq] at h
  rcases execRender_cases hrom sl with ⟨hs, heq⟩ | ⟨-, -, heq⟩ | ⟨-, -, -, heq⟩ | ⟨hs, hh, hb, heq⟩
  · exact .inl ⟨hs, (next_inj.1 (heq.symm.trans h)).symm⟩
  · cases heq.symm.trans h
  · cases heq.symm.trans h
  · exact .inr ⟨hs, hh, hb, (next_inj.1 (heq.symm.trans h)).symm⟩

/-- Settles O40: the elements of the row, those of the other rows, and the flag (R163 to R169); a hit inside the frame
is at one of the record's eight columns. -/
theorem renderCompositesTheRow : Obligations.RenderCompositesTheRow := by
  intro s img sl hrom hs hheights hbg
  refine ⟨_, execRender_next hrom hs hheights hbg, fun x hx y => ?_, ?_⟩
  · by_cases hy : y = sl.toNat
    · subst hy
      rw [if_pos rfl, renderBank_fb s _ hx]
      cases s.rb.find? (drawsAt s sl.toNat x) <;> rfl
    · rw [if_neg hy]
      exact renderBank_other_row _ _ _ s hx hy
  · rw [Bool.eq_iff_iff, renderBank_zeroHit_iff]
    simp only [Bool.or_eq_true, List.any_eq_true, List.mem_range]
    refine or_congr_right (exists_congr fun sp => and_congr_right fun _ => ⟨?_, ?_⟩)
    · rintro ⟨c, -, hhits⟩
      have hright := (exists_column_of_shownAt (shownAt_of_hitsAt hhits)).1
      exact ⟨_, by omega, hhits⟩
    · rintro ⟨x, -, hhits⟩
      obtain ⟨-, c, hc, rfl⟩ := exists_column_of_shownAt (shownAt_of_hitsAt hhits)
      exact ⟨c, hc, hhits⟩

theorem exec_render_frame {s t : State} {sl : Scanline} (h : exec (.render sl) s = .next t) : RenderFrame s t := by
  rcases exec_render_next h with ⟨-, rfl⟩ | ⟨-, -, -, rfl⟩
  · exact .refl _
  · exact renderBank_frame ..

/-- Settles O42: the bank's fold keeps every field but FB and ZEROHIT, the other rows, and a flag already set (R172).
-/
theorem renderChangesOnlyItsRowAndZeroHit : Obligations.RenderChangesOnlyItsRowAndZeroHit := by
  intro s t sl h
  have houtputs : (s.zeroHit = true → t.zeroHit = true) ∧
      ∀ x < 256, ∀ y ≠ sl.toNat, fbRead t.fb x y = fbRead s.fb x y := by
    rcases exec_render_next h with ⟨-, rfl⟩ | ⟨-, -, -, rfl⟩
    · exact ⟨id, fun _ _ _ _ => rfl⟩
    · exact ⟨fun hset => (renderBank_zeroHit_iff ..).2 (.inl hset), fun _ hx _ hy => renderBank_other_row _ _ _ s hx hy⟩
  rw [exec_render_frame h]
  exact ⟨rfl, rfl, rfl, rfl, rfl, rfl, rfl, rfl, rfl, fun _ => rfl, rfl, rfl, rfl, rfl, rfl, rfl, rfl, rfl, rfl, rfl, rfl,
    houtputs⟩

/-- Settles O43: a record draws at its own columns only, and a column past the right edge is skipped (R163). -/
theorem columnsPastTheRightEdgeAreSkipped : Obligations.ColumnsPastTheRightEdgeAreSkipped := by
  constructor
  · intro s t sl x h hx huncovered
    rcases exec_render_next h with ⟨-, rfl⟩ | ⟨-, -, -, rfl⟩
    · rfl
    · refine renderBank_fb_of_not_drawn hx fun sp hsp hdraws => ?_
      obtain ⟨-, c, hc, hcol⟩ := exists_column_of_shownAt (shownAt_of_drawsAt hdraws)
      exact huncovered sp hsp c hc hcol
  · intro sl left sp g row s c hpast
    refine renderColumn_of_not_shown (fun hshown => ?_) sl s
    have hright := ((columnShown_iff ..).1 hshown).1
    omega

/-- Settles O44: with the mask on, a pixel at a column of 0 to 7 is not shown, so it neither is drawn nor hits; with
SHOW_LEFT set the mask skips no column (R164). -/
theorem leftMaskHidesEightColumns : Obligations.LeftMaskHidesEightColumns := by
  refine ⟨fun s t sl h hmask => ?_, fun sl sp g row s c hleft => ?_, fun sl sp g row s c hright hpixel hfront => ?_⟩
  · rcases exec_render_next h with ⟨-, rfl⟩ | ⟨-, -, -, rfl⟩
    · exact ⟨fun _ _ => rfl, fun hclear hset => absurd hset (by simp [hclear])⟩
    · refine ⟨fun x hx => renderBank_fb_of_not_drawn (by omega) fun sp _ hdraws => ?_, fun hclear hset => ?_⟩
      · have hshown := shownAt_of_drawsAt hdraws
        simp only [shownAt, hmask, Bool.false_or, Bool.and_eq_true, decide_eq_true_eq] at hshown
        omega
      · rcases (renderBank_zeroHit_iff ..).1 hset with hz | ⟨sp, hsp, c, hc, hhits⟩
        · simp [hclear] at hz
        · obtain ⟨hidx, hright, hleft, hpixel, hbg⟩ := (hitsAt_column_iff s sl.toNat sp hc).1 hhits
          simp only [hmask, Bool.false_eq_true, false_or] at hleft
          exact ⟨sp, hsp, hidx, c, hc, hleft, hright, hpixel, hbg⟩
  · refine renderColumn_of_not_shown (fun hshown => ?_) sl s
    obtain ⟨-, hleft', -⟩ := (columnShown_iff ..).1 hshown
    simp only [Bool.false_eq_true, false_or] at hleft'
    omega
  · exact renderColumn_fb_of_drawn ((columnShown_iff ..).2 ⟨hright, .inl rfl, hpixel⟩) (.inl hfront)

/-- Settles O45: the hits of the bank, each with its conditions written out (R166). -/
theorem zeroHitNeedsExactlyItsConditions : Obligations.ZeroHitNeedsExactlyItsConditions := by
  intro s img sl hrom hs hheights hbg
  refine ⟨_, execRender_next hrom hs hheights hbg, (renderBank_zeroHit_iff ..).trans ?_⟩
  refine or_congr_right (exists_congr fun sp => and_congr_right fun _ => ?_)
  constructor
  · rintro ⟨c, hc, hhits⟩
    obtain ⟨hidx, hconditions⟩ := (hitsAt_column_iff s sl.toNat sp hc).1 hhits
    exact ⟨hidx, c, hc, hconditions⟩
  · rintro ⟨hidx, c, hc, hconditions⟩
    exact ⟨c, hc, (hitsAt_column_iff s sl.toNat sp hc).2 ⟨hidx, hconditions⟩⟩

/-- In ascending OAM order the first record with a property is the one of the lowest index. -/
theorem find?_eq_of_lowest_idx {bank : List Sprite} (hasc : bank.Pairwise (fun p q => p.idx < q.idx)) {p : Sprite → Bool}
    {sp : Sprite} (hsp : sp ∈ bank) (hp : p sp = true) (hlower : ∀ q ∈ bank, q.idx < sp.idx → p q = false) :
    bank.find? p = some sp := by
  induction bank with
  | nil => cases hsp
  | cons first rest ih =>
    rcases List.mem_cons.1 hsp with rfl | hrest
    · exact List.find?_cons_of_pos hp
    · have hfirst : p first = false := hlower first List.mem_cons_self (List.rel_of_pairwise_cons hasc hrest)
      rw [List.find?_cons_of_neg (by simp [hfirst])]
      exact ih hasc.of_cons hrest fun q hq => hlower q (List.mem_cons_of_mem _ hq)

/-- Settles O47: the element is that of the first record that draws there, which in ascending order is the lowest
(R169). -/
theorem lowerIndexWinsTheOverlap : Obligations.LowerIndexWinsTheOverlap := by
  intro s img sl x sp hrom hs hheights hbg hasc hx hsp hdraws hlower
  refine ⟨_, execRender_next hrom hs hheights hbg, ?_⟩
  rw [renderBank_fb s _ hx, find?_eq_of_lowest_idx hasc hsp hdraws hlower]
  rfl

/-! ### What RENDER reads -/

/-- Two states that RENDER finds alike beside the bank it is given: background, palette, and its two outputs. -/
structure SameCanvas (s s' : State) : Prop where
  bgt      : s.bgt = s'.bgt
  palEpoch : s.palEpoch = s'.palEpoch
  fb       : s.fb = s'.fb
  zeroHit  : s.zeroHit = s'.zeroHit

theorem renderColumn_sameCanvas {s s' : State} (h : SameCanvas s s') (sl : Nat) (left : Bool) (sp : Sprite) (g : Grid)
    (row c : Nat) : SameCanvas (renderColumn sl left sp g row s c) (renderColumn sl left sp g row s' c) := by
  obtain ⟨hbgt, hpal, hfb, hzero⟩ := h
  simp only [renderColumn_cases]
  constructor <;> simp only [hbgt, hpal, hfb, hzero]

theorem foldl_sameCanvas {β : Type} (f : State → β → State)
    (hf : ∀ s s' b, SameCanvas s s' → SameCanvas (f s b) (f s' b)) (l : List β) {s s' : State} (h : SameCanvas s s') :
    SameCanvas (l.foldl f s) (l.foldl f s') := by
  induction l generalizing s s' with
  | nil => exact h
  | cons b l ih => exact ih (hf s s' b h)

theorem renderSprite_sameCanvas {s s' : State} (h : SameCanvas s s') (sl : Nat) (left : Bool) (height : Nat)
    (sp : Sprite) : SameCanvas (renderSprite sl left height s sp) (renderSprite sl left height s' sp) :=
  foldl_sameCanvas _ (fun _ _ c hs => renderColumn_sameCanvas hs sl left sp _ _ c) _ h

theorem renderBank_sameCanvas {s s' : State} (h : SameCanvas s s') (hrb : s.rb = s'.rb) (sl : Nat) (left : Bool)
    (height : Nat) : SameCanvas (renderBank sl left height s) (renderBank sl left height s') := by
  rw [renderBank, renderBank, hrb]
  exact foldl_sameCanvas _ (fun _ _ sp hs => renderSprite_sameCanvas hs sl left height sp) _ h

/-- Settles O48: both states pass the same checks, and the same bank is drawn on the same canvas (R172). -/
theorem renderDoesNotSeeWhatEvalReads : Obligations.RenderDoesNotSeeWhatEvalReads := by
  intro s s' img img' sl hrom hrom' hrb hrbH16 hh16 hleft hbgt hpal hfb hzero hduties
  have hcanvas : SameCanvas s s' := ⟨hbgt, hpal, hfb, hzero⟩
  by_cases hs : 240 ≤ sl.toNat
  · exact ⟨_, _, renderBelowTheDisplayIsANoOp s img sl hrom hs, renderBelowTheDisplayIsANoOp s' img' sl hrom' hs,
      hfb, hzero⟩
  · obtain ⟨hheights, hdone⟩ := hduties.resolve_left hs
    have hheights' : heightsAgree s' := by rwa [heightsAgree, ← hrb, ← hrbH16, ← hh16]
    have hdone' : backgroundDone s' sl.toNat := by rwa [backgroundDone, ← hrb, ← hbgt]
    have hdrawn := renderBank_sameCanvas hcanvas hrb sl.toNat s.showLeft (spriteHeight s.sprH16)
    refine ⟨_, _, execRender_next hrom (by omega) hheights hdone, execRender_next hrom' (by omega) hheights' hdone', ?_⟩
    rw [← hleft, ← hh16]
    exact ⟨hdrawn.fb, hdrawn.zeroHit⟩

/-! ### The sprite row -/

/-- Settles O49: 256 is a multiple of both heights, so wrapping at eight bits keeps the residue; and a matching slot's
offset already lies below the height (R162, R221). -/
theorem spriteRowIsTheFloorModulus : Obligations.SpriteRowIsTheFloorModulus := by
  constructor
  · intro h16 sl y hs
    have hy := y.isLt
    rw [spriteRow, BitVec.toNat_sub, BitVec.toNat_ofNat]
    cases h16 with
    | false => rw [show spriteHeight false = 8 from rfl]; omega
    | true => rw [show spriteHeight true = 16 from rfl]; omega
  · intro h16 oam n prev hmatch
    obtain ⟨hlow, hhigh⟩ := (slotMatches_iff ..).1 hmatch
    rw [nextScanline] at hlow hhigh
    rw [spriteRow, Int.emod_eq_of_lt (by omega) (by omega)]
    omega

end Sys2Proof.Machine
end

