-- ==== Sys2Proof/Proofs/MapperImage.lean ====
section
/-! The mapper outside its windows, its writes, and Save and Load (40_mapper_bus.md R101 to R113; 60_exceptions.md
R191, R192). -/

namespace Sys2Proof.Machine

open Sys2Proof

/-- Settles O31: outside its window each read takes its second branch, the diagnosed read of 0 (R110). -/
theorem unmappedReadsReturnZeroWithADiagnostic : Obligations.UnmappedReadsReturnZeroWithADiagnostic := by
  intro s img a d h
  refine ⟨fun ha => ⟨_, (exec_readChr_of_image h a d).trans (if_neg (by omega)), rfl, rfl⟩,
    fun ha => ⟨_, (exec_readPrg_of_image h a d).trans (if_neg (by omega)), rfl, rfl⟩⟩

/-- Settles O32: with an image to go on with, both writes give the state back (R101, R103, R110). -/
theorem romWritesAreIgnored : Obligations.RomWritesAreIgnored := fun _ _ _ _ h => ⟨withImage_some h _, withImage_some h _⟩

/-! ### Save and Load -/

theorem exec_mSave_of_image {s : State} {img : RomImage} (h : s.rom = some img) :
    exec .mSave s =
      if s.streamFails then .next ((s.setStream (.raw (Config.partialStream s.fresh))).draw.setRet (.result false))
      else .next ((s.setStream (.encoded img)).setRet (.result true)) := withImage_some h _

theorem exec_mLoad_eq (s : State) : exec .mLoad s = execMLoad s := rfl

/-- A Load that finds no image, on a failing stream or in what the stream holds, loses the image (R192, D29). -/
theorem exec_mLoad_of_failure {s : State} (h : s.streamFails = true ∨ streamImage s.stream = none) :
    exec .mLoad s = .next ((s.setRom none).setRet (.result false)) := by
  rw [exec_mLoad_eq, execMLoad]
  rcases h with h | h
  · rw [if_pos h]
  · rw [h, ite_self]

/-- A Load that finds an image takes it exactly if it is a configuration of this hardware (R109, R113). -/
theorem exec_mLoad_of_image {s : State} {img : RomImage} (hworks : s.streamFails = false)
    (h : streamImage s.stream = some img) :
    exec .mLoad s =
      if RomImage.valid img then .next ((s.setRom (some img)).setRet (.result true))
      else .refused .notAConfiguration := by
  rw [exec_mLoad_eq, execMLoad, hworks, if_neg Bool.false_ne_true, h]

/-- Settles O35: the two branches of Save (R108, R192). -/
theorem saveWritesTheImageOrReportsFailure : Obligations.SaveWritesTheImageOrReportsFailure := by
  intro s img h
  have hsave := exec_mSave_of_image h
  refine ⟨fun hworks => ?_, fun hfails => ⟨_, hsave.trans (if_pos hfails)⟩⟩
  exact hsave.trans (if_neg (by simp [hworks]))

/-- Settles O36: a Load finds no image, or one that is or is not a configuration (R109, R113, R192). -/
theorem loadReplacesOrLosesTheImage : Obligations.LoadReplacesOrLosesTheImage := fun _ =>
  ⟨fun _ hworks himg hvalid => (exec_mLoad_of_image hworks himg).trans (if_pos hvalid), exec_mLoad_of_failure,
    fun _ hworks himg hvalid => (exec_mLoad_of_image hworks himg).trans (if_neg hvalid)⟩

/-- Settles O37: what Save leaves in the stream is what Load takes from it, and neither looks at the image in between
(R109). -/
theorem saveThenLoadRestoresTheImage : Obligations.SaveThenLoadRestoresTheImage := by
  intro s img between h hvalid hworks
  have hsave := (exec_mSave_of_image h).trans (if_neg (by simp [hworks]))
  have hload (t : State) (hworks' : t.streamFails = false) (hstream : streamImage t.stream = some img) :=
    (exec_mLoad_of_image hworks' hstream).trans (if_pos hvalid)
  exact ⟨_, _, hsave, rfl, hload _ hworks rfl, rfl, rfl⟩

/-- Settles O38: every operation but MLOAD asks for the image first (R192). -/
theorem nothingButLoadRunsWithoutAnImage : Obligations.NothingButLoadRunsWithoutAnImage := by
  intro s i h hi
  cases i with
  | mLoad => exact absurd rfl hi
  | eval | render | decode8 | decode16 | flip | readPrg | writePrg | readChr | writeChr | mReset | mTick | mIrq | mMirror
  | mSave => exact withImage_none h _

/-! ### What the mapper returns -/

/-- What a read of the mapper returns, as a function of the image and the operands (R100, R102, R106, R107, R110,
R112). -/
def mapperAnswer (img : RomImage) : Instr → Returned
  | .readPrg a _ => .byte (if 0x8000 ≤ a.toNat then prgByte img a else 0)
  | .readChr a _ => .byte (if a.toNat ≤ 0x1FFF then chrByte img a else 0)
  | .mIrq => .bool false
  | .mMirror => .mirror img.mirror
  | _ => .nothing

theorem exec_mapperRead {s : State} {img : RomImage} (h : s.rom = some img) {a : BusAddr} {d : Byte} {i : Instr}
    (hi : i ∈ [Instr.readPrg a d, .readChr a d, .mIrq, .mMirror]) :
    ∃ t, exec i s = .next t ∧ t.ret = mapperAnswer img i := by
  simp only [List.mem_cons, List.not_mem_nil, or_false] at hi
  rcases hi with rfl | rfl | rfl | rfl
  · by_cases ha : 0x8000 ≤ a.toNat
    · exact ⟨_, (exec_readPrg_of_image h a d).trans (if_pos ha), congrArg Returned.byte (if_pos ha).symm⟩
    · exact ⟨_, (exec_readPrg_of_image h a d).trans (if_neg ha), congrArg Returned.byte (if_neg ha).symm⟩
  · by_cases ha : a.toNat ≤ 0x1FFF
    · exact ⟨_, (exec_readChr_of_image h a d).trans (if_pos ha), congrArg Returned.byte (if_pos ha).symm⟩
    · exact ⟨_, (exec_readChr_of_image h a d).trans (if_neg ha), congrArg Returned.byte (if_neg ha).symm⟩
  · exact ⟨_, exec_mIrq_of_image h, rfl⟩
  · exact ⟨_, exec_mMirror_of_image h, rfl⟩

end Sys2Proof.Machine
end

