-- ==== Sys2Proof/Proofs/OperationEffects.lean ====
section
/-! Everything an operation that completes can do to the state, and what follows for the whole machine (10_state.md
R27, R32 to R34, R38; 60_exceptions.md R191, R199). -/

namespace Sys2Proof.Machine

open Sys2Proof

/-- A bound on how an operation changes a state, if it completes: exact for EVAL and RENDER, while those that do
nothing or only give a value back, outside the block or inside it, share one case each; `loaded` says what a Load may
put in the mapper. -/
inductive Effect (s : State) : Instr → State → Prop
  | evaluated {img : RomImage} {sl : Scanline} (hrom : s.rom = some img) (hs : sl.toNat < 240) :
      Effect s (.eval sl)
        (s.setBanks ((keptSlots s (sl.toNat + 1)).map (decodeSlot s.sprH16 s.sprTable img s.oam)) s.eb (some s.sprH16)
          s.ebH16 (s.overflow || decide (9 ≤ (matchingSlots s (sl.toNat + 1)).length)))
  | rendered {sl : Scanline} (hs : sl.toNat < 240) :
      Effect s (.render sl) (renderBank sl.toNat s.showLeft (spriteHeight s.sprH16) s)
  | held {i : Instr} : Effect s i s
  | produced {i : Instr} (p : Produced) : Effect s i (s.setMade p)
  | returned {i : Instr} (r : Returned) : Effect s i (s.setRet r)
  | unmappedChr {a : BusAddr} {d : Byte} (ha : 0x1FFF < a.toNat) : Effect s (.readChr a d) (unmappedRead s .chr a)
  | unmappedPrg {a : BusAddr} {d : Byte} (ha : a.toNat < 0x8000) : Effect s (.readPrg a d) (unmappedRead s .prg a)
  | saved (st : Stream) (r : Returned) : Effect s .mSave ((s.setStream st).setRet r)
  | saveFailed (st : Stream) (r : Returned) : Effect s .mSave ((s.setStream st).draw.setRet r)
  | loaded {rom : Option RomImage} (hrom : romWf rom) (r : Returned) : Effect s .mLoad ((s.setRom rom).setRet r)

theorem effect_of_execMLoad {s t : State} (h : exec .mLoad s = .next t) : Effect s .mLoad t := by
  by_cases hfails : s.streamFails = true ∨ streamImage s.stream = none
  · obtain rfl := next_inj.1 ((exec_mLoad_of_failure hfails).symm.trans h)
    exact .loaded (fun _ himg => absurd himg (Option.not_mem_none _)) _
  · obtain ⟨hworks, hfound⟩ := not_or.1 hfails
    obtain ⟨img, himg⟩ := Option.ne_none_iff_exists'.1 hfound
    rw [exec_mLoad_of_image (by simpa using hworks) himg] at h
    split at h
    · next hvalid =>
      obtain rfl := next_inj.1 h
      exact .loaded (fun _ hmem => by cases hmem; exact hvalid) _
    · cases h

theorem effect_of_execFlip {s t : State} {i : BankIndex} {fv fh : Bool} (h : exec (.flip i fv fh) s = .next t) :
    Effect s (.flip i fv fh) t := by
  obtain ⟨img, hrom, hk⟩ := withImage_next h
  cases hsp : s.rb[i.val]? with
  | none => rw [hsp] at hk; cases hk
  | some sp =>
    rw [exec_flip_of_record hrom hsp] at h
    split at h
    · exact next_inj.1 h ▸ .produced _
    · cases h

/-- An operation that completes has one of the effects. -/
theorem effect_of_exec {i : Instr} {s t : State} (h : exec i s = .next t) : Effect s i t := by
  cases i with
  | eval sl =>
    obtain ⟨img, hrom, hs, rfl⟩ := exec_eval_next h
    exact .evaluated hrom hs
  | render sl =>
    rcases exec_render_next h with ⟨-, rfl⟩ | ⟨hs, -, -, rfl⟩
    · exact .held
    · exact .rendered hs
  | decode8 n e | decode16 n e =>
    obtain ⟨img, -, hk⟩ := withImage_next h
    exact next_inj.1 hk ▸ .produced _
  | flip i fv fh => exact effect_of_execFlip h
  | readPrg a d =>
    obtain ⟨img, hrom, -⟩ := withImage_next h
    rw [exec_readPrg_of_image hrom] at h
    split at h
    · exact next_inj.1 h ▸ .returned _
    · next ha => exact next_inj.1 h ▸ .unmappedPrg (not_le.1 ha)
  | readChr a d =>
    obtain ⟨img, hrom, -⟩ := withImage_next h
    rw [exec_readChr_of_image hrom] at h
    split at h
    · exact next_inj.1 h ▸ .returned _
    · next ha => exact next_inj.1 h ▸ .unmappedChr (not_le.1 ha)
  | writePrg | writeChr | mReset | mTick =>
    obtain ⟨img, -, hk⟩ := withImage_next h
    exact next_inj.1 hk ▸ .held
  | mIrq | mMirror =>
    obtain ⟨img, -, hk⟩ := withImage_next h
    exact next_inj.1 hk ▸ .returned _
  | mSave =>
    obtain ⟨img, hrom, -⟩ := withImage_next h
    rw [exec_mSave_of_image hrom] at h
    split at h
    · exact next_inj.1 h ▸ .saveFailed _ _
    · exact next_inj.1 h ▸ .saved _ _
  | mLoad => exact effect_of_execMLoad h

/-- Settles O39: the returned value is a function of the image and the operands, and of the effects only that of a
Load touches the image (R109, R112). -/
theorem mapperResultsDependOnTheImageAlone : Obligations.MapperResultsDependOnTheImageAlone := by
  constructor
  · intro s s' img a d i hrom hrom' hi
    obtain ⟨t, ht, hret⟩ := exec_mapperRead hrom hi
    obtain ⟨t', ht', hret'⟩ := exec_mapperRead hrom' hi
    exact ⟨t, t', ht, ht', hret.trans hret'.symm⟩
  · intro s t i hload h
    cases effect_of_exec h with
    | loaded => exact absurd rfl hload
    | rendered => rw [renderBank_frame]
    | evaluated | held | produced | returned | unmappedChr | unmappedPrg | saved | saveFailed => rfl

/-- Settles O51: of the effects only an EVAL's writes the banks and OVERFLOW, which it joins to the old flag, and only
a RENDER's writes FB and ZEROHIT, which it never clears (R27, R32, R33). -/
theorem onlyEvalAndRenderTouchBanksAndFlags : Obligations.OnlyEvalAndRenderTouchBanksAndFlags := by
  intro i s t h
  cases effect_of_exec h with
  | evaluated =>
    refine ⟨fun hi => absurd rfl (hi _), fun _ => ⟨rfl, rfl⟩, fun hset => ?_, id⟩
    simp [hset]
  | @rendered sl =>
    have hframe := renderBank_frame sl.toNat s.showLeft (spriteHeight s.sprH16) s
    refine ⟨fun _ => ?_, fun hi => absurd rfl (hi _), fun hset => ?_,
      fun hset => (renderBank_zeroHit_iff ..).2 (.inl hset)⟩
    · rw [hframe]
      exact ⟨rfl, rfl, rfl, rfl, rfl⟩
    · rw [hframe]
      exact hset
  | held | produced | returned | unmappedChr | unmappedPrg | saved | saveFailed | loaded =>
    exact ⟨fun _ => ⟨rfl, rfl, rfl, rfl, rfl⟩, fun _ => ⟨rfl, rfl⟩, id, id⟩

/-- Settles O52: no effect writes any of these fields (R34, R38, R199). -/
theorem noOperationWritesItsInputs : Obligations.NoOperationWritesItsInputs := by
  intro i s t h
  cases effect_of_exec h with
  | rendered =>
    rw [renderBank_frame]
    exact ⟨rfl, rfl, rfl, rfl, rfl, rfl, rfl, rfl, rfl, rfl⟩
  | evaluated | held | produced | returned | unmappedChr | unmappedPrg | saved | saveFailed | loaded =>
    exact ⟨rfl, rfl, rfl, rfl, rfl, rfl, rfl, rfl, rfl, rfl⟩

/-- Settles O53: of the effects only an unmapped read adds a diagnostic (R110, R191). -/
theorem onlyUnmappedReadsEmitDiagnostics : Obligations.OnlyUnmappedReadsEmitDiagnostics := by
  intro i s t h
  cases effect_of_exec h with
  | unmappedChr ha => exact ⟨⟨_, rfl⟩, fun _ => .inl ⟨_, _, rfl, ha⟩⟩
  | unmappedPrg ha => exact ⟨⟨_, rfl⟩, fun _ => .inr ⟨_, _, rfl, ha⟩⟩
  | rendered =>
    rw [renderBank_frame]
    exact ⟨⟨[], (List.append_nil _).symm⟩, fun hchanged => absurd rfl hchanged⟩
  | evaluated | held | produced | returned | saved | saveFailed | loaded =>
    exact ⟨⟨[], (List.append_nil _).symm⟩, fun hchanged => absurd rfl hchanged⟩

/-- Settles O50: each operation's refusing branch, under the condition that leads to it (R145, R173, R222, R28). -/
theorem operationsOutsideTheirDomainAreRefused : Obligations.OperationsOutsideTheirDomainAreRefused := by
  intro s img h
  refine ⟨fun sl hs => ?_, fun sl hs hheights => ?_, fun sl hs hheights hbg => ?_, fun i fv fh hcount => ?_,
    fun i fv fh sp hsp hheight => ?_⟩
  · exact (withImage_some h _).trans (if_neg (by simpa using hs))
  · rcases execRender_cases h sl with ⟨hs', -⟩ | ⟨-, -, heq⟩ | ⟨-, hheights', -⟩ | ⟨-, hheights', -⟩
    · omega
    · exact heq
    · exact absurd hheights' hheights
    · exact absurd hheights' hheights
  · rcases execRender_cases h sl with ⟨hs', -⟩ | ⟨-, hheights', -⟩ | ⟨-, -, -, heq⟩ | ⟨-, -, hbg', -⟩
    · omega
    · exact absurd hheights hheights'
    · exact heq
    · exact absurd hbg' hbg
  · have hexec : exec (.flip i fv fh) s = _ := withImage_some h _
    rw [hexec, List.getElem?_eq_none hcount]
  · exact (exec_flip_of_record h hsp fv fh).trans (if_neg hheight)

end Sys2Proof.Machine
end

