-- ==== Sys2Proof/Proofs/MachineSteps.lean ====
section
/-! One step of the machine, by what comes first (20_memory.md R70; log 1, log 3), and the operations' words
(30_encoding.md R89 to R91). -/

namespace Sys2Proof.Machine

open Sys2Proof

section FirstThing

variable {s : State}

theorem step_of_nothing (hint : s.internal = none) (hpend : s.pending = []) : step s = .next s := by
  rw [step, hint, hpend]

theorem step_of_action (hint : s.internal = none) {a : HostAction} {rest : List Event}
    (hpend : s.pending = .act a :: rest) : step s = act a (s.setPending rest) := by
  rw [step, hint, hpend]

theorem step_of_request (hint : s.internal = none) {r : Request} {rest : List Event} (hpend : s.pending = .op r :: rest) :
    step s = runWord (requestWord r) (s.setPending rest) := by
  rw [step, hint, hpend]

theorem step_of_internal {r : InternalOp} (hint : s.internal = some r) : step s = runInternal r (s.setInternal none) := by
  rw [step, hint]

end FirstThing

theorem runWord_of_decode {s : State} {w : OpWord} {i : Instr} (h : decode s.sprH16 w = .ok i) :
    runWord w s = exec i s := by
  rw [runWord, h]

theorem runInternal_of_fetch {s : State} {r : InternalOp} {w : OpWord} (h : fetchInternal r s = .ok w) :
    runInternal r s = runWord w s := by
  rw [runInternal, h]

/-- A fetch does not read the field that says which internal operation runs. -/
theorem fetchInternal_setInternal (r : InternalOp) (s : State) (o : Option InternalOp) :
    fetchInternal r (s.setInternal o) = fetchInternal r s := by
  cases r <;> rfl

/-- Settles O8: the first thing of the step fetches and decodes to the operation, which then runs (R70, R89). -/
theorem stepRunsTheDecodedOperation : Obligations.StepRunsTheDecodedOperation := by
  constructor
  · intro s r rest i hint hpend hdecode
    exact (step_of_request hint hpend).trans (runWord_of_decode hdecode)
  · intro s r w i hint hfetch hdecode
    have hfetch' : fetchInternal r (s.setInternal none) = .ok w := (fetchInternal_setInternal ..).trans hfetch
    exact (step_of_internal hint).trans ((runInternal_of_fetch hfetch').trans (runWord_of_decode hdecode))

/-- Settles O9, the two other things a step can find first (R204, R213). -/
theorem stepHoldsOrCarriesOutAnAction : Obligations.StepHoldsOrCarriesOutAnAction :=
  ⟨fun _ => step_of_nothing, fun _ _ _ hint => step_of_action hint⟩

/-- Settles O3: the formats but CAP have no word that is rejected, and a request of a rejected CAP word is refused
(R90). -/
theorem onlyUnassignedCapabilitiesAreRejected : Obligations.OnlyUnassignedCapabilitiesAreRejected := by
  refine ⟨decode_error_iff, fun s k rest hint hpend hk => ?_⟩
  have hdecode : decode s.sprH16 (.cap k) = .error (.unassignedCap k) := (decode_error_iff ..).2 ⟨k, rfl, hk, rfl⟩
  rw [step_of_request hint hpend, runWord, requestWord, State.setPending_sprH16, hdecode]

/-- Settles O10: the fetched words are the encodings of the operations, which decode to them (R80, R89, R91). -/
theorem internalOperationsFetchTheirOperands : Obligations.InternalOperationsFetchTheirOperands := by
  constructor
  · intro s n hint
    have hstep (i : Instr) (hword : encode i = .oam n (wordOfEntry (oamEntry s.oam n)))
        (hmode : i.decodesUnder s.sprH16 = true) : step s = exec i (s.setInternal none) :=
      stepRunsTheDecodedOperation.2 s _ _ i hint rfl (hword ▸ decodeOfEncodeIsTheOperation i _ hmode)
    cases hh16 : s.sprH16 with
    | false => exact hstep (.decode8 n (oamEntry s.oam n)) rfl (by rw [hh16]; rfl)
    | true => exact hstep (.decode16 n (oamEntry s.oam n)) rfl (by rw [hh16]; rfl)
  · intro s i sp hint hsp
    have hfetch : fetchInternal (.flipRecord i) s = .ok (encode (.flip i sp.fv sp.fh)) := by
      rw [fetchInternal, hsp, encode]
    exact stepRunsTheDecodedOperation.2 s _ _ _ hint hfetch (decodeOfEncodeIsTheOperation _ _ rfl)

theorem runWord_next {s t : State} {w : OpWord} (h : runWord w s = .next t) :
    ∃ i, decode s.sprH16 w = .ok i ∧ exec i s = .next t := by
  rw [runWord] at h
  split at h
  · next i hdecode => exact ⟨i, hdecode, h⟩
  · cases h

theorem runInternal_next {s t : State} {r : InternalOp} (h : runInternal r s = .next t) : ∃ i, exec i s = .next t := by
  rw [runInternal] at h
  split at h
  · cases h
  · obtain ⟨i, -, hexec⟩ := runWord_next h
    exact ⟨i, hexec⟩

/-- Everything a step that completes can have done: nothing, another agent's action, or an operation, requested or
internal, with what it took up no longer pending. -/
theorem step_next {s t : State} (h : step s = .next t) :
    t = s ∨ (∃ a rest, act a (s.setPending rest) = .next t) ∨
      (∃ i rest, exec i (s.setPending rest) = .next t) ∨ (∃ i, exec i (s.setInternal none) = .next t) := by
  cases hint : s.internal with
  | some r =>
    rw [step_of_internal hint] at h
    exact .inr (.inr (.inr (runInternal_next h)))
  | none =>
    cases hpend : s.pending with
    | nil => exact .inl (next_inj.1 (h.symm.trans (step_of_nothing hint hpend)))
    | cons e rest =>
      cases e with
      | act a => exact .inr (.inl ⟨a, rest, (step_of_action hint hpend).symm.trans h⟩)
      | op r =>
        rw [step_of_request hint hpend] at h
        obtain ⟨i, -, hexec⟩ := runWord_next h
        exact .inr (.inr (.inl ⟨i, rest, hexec⟩))

end Sys2Proof.Machine
end

