-- ==== Sys2Proof/Proofs/HostActions.lean ====
section
/-! The actions of the other agents, the reset of the block among them, and the script's pseudo-operations
(10_state.md R32, R38; 70_reset_and_hazards.md R210 to R213; 30_encoding.md R93, R94). -/

namespace Sys2Proof.Machine

open Sys2Proof

/-- Settles O54: each action's write to its one field, and the reads of that field after the write (R14, R38, R73,
R113). -/
theorem hostActionsWriteTheirTarget : Obligations.HostActionsWriteTheirTarget := by
  refine ⟨fun s a v hoam => ?_, fun s x y b => ?_, fun s y row => ?_, fun s x y c => ?_, fun s b => ?_, fun s st b => ?_,
    fun s img => ?_⟩
  · exact ⟨_, rfl, oamRead_write_same hoam .., fun _ hb => oamRead_write_other _ _ hb, oamWrite_wf hoam a.isLt⟩
  · exact ⟨_, rfl, bgtRead_write_same .., fun _ hx' _ hne => bgtRead_write_other _ _ x.isLt hx' hne⟩
  · refine ⟨_, rfl, fun x hx => ?_, fun x hx y' hy' => ?_⟩
    · rw [bgtRead_writeRow _ _ _ le_rfl hx, if_pos ⟨rfl, hx⟩]
    · rw [bgtRead_writeRow _ _ _ le_rfl hx, if_neg fun hsame => hy' hsame.1]
  · exact ⟨_, rfl, fbRead_write_same .., fun _ hx' _ hne => fbRead_write_other _ _ x.isLt hx' hne⟩
  · exact ⟨rfl, rfl, rfl, rfl, rfl, rfl⟩
  · exact ⟨rfl, rfl, rfl⟩
  · exact ⟨fun hvalid => if_pos hvalid, fun hvalid => if_neg hvalid⟩

/-- A RENDER of an empty bank that no EVAL filled draws nothing (R213). -/
theorem exec_render_of_empty {s : State} {img : RomImage} (h : s.rom = some img) (hrb : s.rb = [])
    (hrbH16 : s.rbH16 = none) (sl : Scanline) : exec (.render sl) s = .next s := by
  by_cases hs : 240 ≤ sl.toNat
  · exact renderBelowTheDisplayIsANoOp s img sl h hs
  · have hheights : heightsAgree s := by simp [heightsAgree, hrb, hrbH16]
    rw [execRender_next h (by omega) hheights (.inl hrb), renderBank, hrb]
    rfl

/-- Settles O55: the reset leaves the bank that such a RENDER is given (R210, R211, R213). -/
theorem blockResetEmptiesBothBanks : Obligations.BlockResetEmptiesBothBanks := by
  refine ⟨fun _ => rfl, fun s t img sl h hreset => ?_, rfl, rfl⟩
  obtain rfl : resetBlock s = t := next_inj.1 hreset
  exact exec_render_of_empty (s := resetBlock s) h rfl rfl sl

/-- The scanlines of FRAME are 0 to 239, each with its pair of commands (R94). -/
theorem scriptFrame_eq :
    scriptFrame = (List.range 240).flatMap fun k => [scriptEval (BitVec.ofNat 9 k), scriptRender (BitVec.ofNat 9 k)] := by
  have hlines : ((List.range (240 + 272)).filter fun s => (0 : Scanline).toNat ≤ s && s ≤ (239 : Scanline).toNat) =
      List.range 240 := by
    rw [List.range_add, List.filter_append, List.filter_eq_self.2, List.filter_eq_nil_iff.2, List.append_nil]
    · simp
      omega
    · simp
      omega
  rw [scriptFrame, scriptLines, hlines]
  rfl

/-- Settles O56: FRAME is a list written in pairs, one for each of the 240 lines (R94). -/
theorem frameIsEveryLineOnce : Obligations.FrameIsEveryLineOnce := by
  refine ⟨fun _ => rfl, ?_, fun k hk => ?_⟩
  · rw [scriptFrame_eq, flatMap_pair_length]
  · rw [scriptFrame_eq]
    exact flatMap_pair_getElem? _ _ _ hk

end Sys2Proof.Machine
end

