-- ==== Sys2Proof/Proofs/MachineInvariant.lean ====
section
/-! The invariant of the machine (10_state.md R22 to R24; 40_mapper_bus.md R113): it holds at reset, and every effect
of an operation and every action of another agent keeps it. -/

namespace Sys2Proof.Machine

open Sys2Proof

theorem bankWf_nil (h16 : Option Bool) : bankWf h16 [] := by simp [bankWf]

/-- The bank that an EVAL fills: a part of the 64 slots in their order, each decoded at the sampled height. -/
theorem bankWf_evaluated (s : State) (img : RomImage) (t : Nat) :
    bankWf (some s.sprH16) ((keptSlots s t).map (decodeSlot s.sprH16 s.sprTable img s.oam)) := by
  refine ⟨?_, map_decodeSlot_ascending _ _ _ _ (slots_sorted.sublist (keptSlots_sublist s t)), fun sp hsp => ⟨rfl, ?_⟩⟩
  · rw [List.length_map]
    exact (keptSlots_sublist s t).length_le.trans (List.length_finRange (n := 64)).le
  · obtain ⟨n, -, rfl⟩ := List.mem_map.1 hsp
    exact decodeGrid_wf ..

/-! ### RENDER keeps the canonical form of FB -/

theorem renderColumn_fb_wf {sl : Nat} (hs : sl < 240) (left : Bool) (sp : Sprite) (g : Grid) (row : Nat) {s : State}
    (c : Nat) (hfb : cellsWf 61440 (fun _ => false) s.fb) :
    cellsWf 61440 (fun _ => false) (renderColumn sl left sp g row s c).fb := by
  rw [renderColumn_cases]
  simp only
  split
  · next hdrawn =>
    have hright := ((columnShown_iff ..).1 (Bool.and_eq_true_iff.1 hdrawn).1).1
    exact fbWrite_wf hfb (Nat.lt_succ_of_le hright) hs
  · exact hfb

theorem renderBank_fb_wf {sl : Nat} (hs : sl < 240) (left : Bool) (h : Nat) {s : State}
    (hfb : cellsWf 61440 (fun _ => false) s.fb) : cellsWf 61440 (fun _ => false) (renderBank sl left h s).fb :=
  List.foldlRecOn (motive := fun t : State => cellsWf 61440 (fun _ => false) t.fb) _ _ hfb fun _ ht sp _ =>
    List.foldlRecOn (motive := fun t : State => cellsWf 61440 (fun _ => false) t.fb) _ _ ht fun _ ht c _ =>
      renderColumn_fb_wf hs left sp _ _ c ht

/-! ### The invariant, field by field -/

section Fields

variable {s : State} (hinv : s.Inv)
include hinv

theorem State.Inv.with_oam {m : Memory} (hm : Memory.wf 256 oamUnlisted m) : { s with oam := m }.Inv := by
  obtain ⟨heb, hrb, -, hbgt, hfb, hrom⟩ := hinv
  exact ⟨heb, hrb, hm, hbgt, hfb, hrom⟩

theorem State.Inv.with_bgt {m : List (Nat × Bool)} (hm : cellsWf 61440 (fun _ => false) m) : { s with bgt := m }.Inv := by
  obtain ⟨heb, hrb, hoam, -, hfb, hrom⟩ := hinv
  exact ⟨heb, hrb, hoam, hm, hfb, hrom⟩

theorem State.Inv.with_fb {m : List (Nat × Colour)} (hm : cellsWf 61440 (fun _ => false) m) : { s with fb := m }.Inv := by
  obtain ⟨heb, hrb, hoam, hbgt, -, hrom⟩ := hinv
  exact ⟨heb, hrb, hoam, hbgt, hm, hrom⟩

theorem State.Inv.setRom {r : Option RomImage} (hr : romWf r) : (s.setRom r).Inv := by
  obtain ⟨heb, hrb, hoam, hbgt, hfb, -⟩ := hinv
  exact ⟨heb, hrb, hoam, hbgt, hfb, hr⟩

theorem State.Inv.resetBlock : (resetBlock s).Inv := by
  obtain ⟨-, -, hmemories⟩ := hinv
  exact ⟨bankWf_nil _, bankWf_nil _, hmemories⟩

theorem State.Inv.clearFlag (f : Flag) : (s.clearFlag f).Inv := by
  cases f <;> exact hinv

/-- RENDER changes FB and a flag, and the flag is no part of the invariant. -/
theorem State.Inv.renderBank {sl : Nat} (hs : sl < 240) (left : Bool) (h : Nat) : (renderBank sl left h s).Inv := by
  obtain ⟨heb, hrb, hoam, hbgt, hfb, hrom⟩ := hinv
  rw [renderBank_frame]
  exact ⟨heb, hrb, hoam, hbgt, renderBank_fb_wf hs left h hfb, hrom⟩

/-- EVAL hands EB over as it is and fills it anew. -/
theorem State.Inv.evaluated (img : RomImage) (t : Nat) (o : Bool) :
    (s.setBanks ((keptSlots s t).map (decodeSlot s.sprH16 s.sprTable img s.oam)) s.eb (some s.sprH16) s.ebH16 o).Inv := by
  obtain ⟨heb, -, hmemories⟩ := hinv
  exact ⟨bankWf_evaluated s img t, heb, hmemories⟩

end Fields

theorem romWf_some {img : RomImage} (hvalid : RomImage.valid img) : romWf (some img) := fun _ himg =>
  Option.mem_some.1 himg ▸ hvalid

/-! ### Operations, actions, steps -/

theorem effect_keeps_inv {i : Instr} {s t : State} (hinv : s.Inv) (h : Effect s i t) : t.Inv := by
  cases h with
  | evaluated => exact hinv.evaluated ..
  | rendered hs => exact hinv.renderBank hs ..
  | loaded hrom => exact hinv.setRom hrom
  | held | produced | returned | unmappedChr | unmappedPrg | saved | saveFailed => exact hinv

theorem act_keeps_inv {a : HostAction} {s t : State} (hinv : s.Inv) (h : act a s = .next t) : t.Inv := by
  have ⟨_, _, hoam, hbgt, hfb, _⟩ := hinv
  cases a with
  | writeOam a v => exact next_inj.1 h ▸ hinv.with_oam (oamWrite_wf hoam a.isLt)
  | writeBgt x y b => exact next_inj.1 h ▸ hinv.with_bgt (bgtWrite_wf hbgt x.isLt y.isLt)
  | writeBgtRow y row => exact next_inj.1 h ▸ hinv.with_bgt (bgtWriteRow_wf hbgt y.isLt le_rfl)
  | writeFb x y c => exact next_inj.1 h ▸ hinv.with_fb (fbWrite_wf hfb x.isLt y.isLt)
  | construct img =>
    by_cases hvalid : RomImage.valid img
    · exact next_inj.1 ((if_pos hvalid).symm.trans h) ▸ hinv.setRom (romWf_some hvalid)
    · cases (if_neg hvalid).symm.trans h
  | resetBlock => exact next_inj.1 h ▸ hinv.resetBlock
  | clearFlag f => exact next_inj.1 h ▸ hinv.clearFlag f
  | setSprTable | setSprH16 | setShowLeft | setBypass | changePalette | giveStream | setStreamFails =>
    exact next_inj.1 h ▸ hinv

/-- Settles O57: what a step does is nothing, an action or an operation, and the events still to come are no part of
the invariant. -/
theorem everyStepKeepsTheMachineWellFormed : Obligations.EveryStepKeepsTheMachineWellFormed := by
  intro s t hinv h
  rcases step_next h with rfl | ⟨a, rest, hact⟩ | ⟨i, rest, hexec⟩ | ⟨i, hexec⟩
  · exact hinv
  · exact act_keeps_inv (s := s.setPending rest) hinv hact
  · exact effect_keeps_inv (s := s.setPending rest) hinv (effect_of_exec hexec)
  · exact effect_keeps_inv (s := s.setInternal none) hinv (effect_of_exec hexec)

/-- Settles O58: empty banks and memories, and an image of one PRG unit (R113, R210). -/
theorem resetStateIsWellFormed : Obligations.ResetStateIsWellFormed := by
  have himage : RomImage.valid resetImage := by decide
  exact ⟨⟨bankWf_nil _, bankWf_nil _, by decide, by decide, by decide, romWf_some himage⟩, rfl, rfl, rfl, rfl, rfl⟩

end Sys2Proof.Machine
end

