-- ==== Sys2Proof/Proofs/HostVisibility.lean ====
section
/-! What the host can see (10_state.md R40): a step's answer as the host sees it depends on
the state as the host sees it, RENDER's on RB beside it. -/

namespace Sys2Proof.Machine

open Sys2Proof

/-- What the host can read of an answer: of a next state its view, and a refusal's reason. -/
def hostAnswer : Answer → Answer
  | .next t => .next t.hostView
  | .fault r => .fault r
  | .refused r => .refused r

/-- Answers that the host cannot tell apart are refused alike or completed with one view. -/
theorem alike_of_hostAnswer_eq {a a' : Answer} (h : hostAnswer a = hostAnswer a') :
    (∃ r, a = .refused r ∧ a' = .refused r) ∨ (∃ t t', a = .next t ∧ a' = .next t' ∧ t.hostView = t'.hostView) := by
  cases a with
  | fault r => cases r
  | refused r =>
    cases a' with
    | fault r' => cases r'
    | next t' => cases h
    | refused r' => cases h; exact .inl ⟨r, rfl, rfl⟩
  | next t =>
    cases a' with
    | fault r' => cases r'
    | refused r' => cases h
    | next t' => exact .inr ⟨t, t', rfl, rfl, next_inj.1 h⟩

/-! ### Actions and the operations that read no bank -/

theorem act_hostView (a : HostAction) (s : State) : hostAnswer (act a s.hostView) = hostAnswer (act a s) := by
  cases a with
  | construct img =>
    simp only [act, apply_ite hostAnswer]
    rfl
  | clearFlag f => cases f <;> rfl
  | writeOam | setSprTable | setSprH16 | setShowLeft | setBypass | writeBgt | writeBgtRow | writeFb | changePalette
  | giveStream | setStreamFails | resetBlock => rfl

/-- The operations that the host can ask for, but for RENDER: none of them reads a bank or `made` (R40). -/
def readsNoBank : Instr → Bool
  | .render _ => false
  | .decode8 _ _ => false
  | .decode16 _ _ => false
  | .flip _ _ _ => false
  | _ => true

theorem withImage_hostView {s : State} {k k' : RomImage → Answer} (h : ∀ img, hostAnswer (k img) = hostAnswer (k' img)) :
    hostAnswer (withImage s.hostView k) = hostAnswer (withImage s k') := by
  cases hrom : s.rom with
  | none => rw [withImage_none (s := s.hostView) hrom, withImage_none hrom]
  | some img => rw [withImage_some (s := s.hostView) hrom, withImage_some hrom, h]

theorem exec_hostView {i : Instr} (hi : readsNoBank i = true) (s : State) :
    hostAnswer (exec i s.hostView) = hostAnswer (exec i s) := by
  cases i with
  | render | decode8 | decode16 | flip => cases hi
  | eval sl => exact withImage_hostView fun img => by split <;> rfl
  | readPrg a d | readChr a d => exact withImage_hostView fun img => by split <;> rfl
  | mSave =>
    refine withImage_hostView fun img => ?_
    rw [apply_ite hostAnswer, apply_ite hostAnswer]
    rfl
  | mLoad =>
    by_cases hfails : s.streamFails = true ∨ streamImage s.stream = none
    · rw [exec_mLoad_of_failure hfails, exec_mLoad_of_failure (s := s.hostView) hfails]
      rfl
    · obtain ⟨hworks, hfound⟩ := not_or.1 hfails
      obtain ⟨img, himg⟩ := Option.ne_none_iff_exists'.1 hfound
      rw [Bool.not_eq_true] at hworks
      rw [exec_mLoad_of_image hworks himg, exec_mLoad_of_image (s := s.hostView) hworks himg]
      split <;> rfl
  | writePrg | writeChr | mReset | mTick | mIrq | mMirror => exact withImage_hostView fun _ => rfl

/-! ### RENDER -/

theorem RenderFrame.hostView {s t : State} (h : RenderFrame s t) :
    t.hostView = { s.hostView with fb := t.fb, zeroHit := t.zeroHit } := by
  rw [h]
  rfl

/-- Two states that look alike and hold one RB are given the same RENDER. -/
theorem exec_render_hostView {s s' : State} (hview : s.hostView = s'.hostView) (hrb : s.rb = s'.rb)
    (hrbH16 : s.rbH16 = s'.rbH16) (sl : Scanline) :
    hostAnswer (exec (.render sl) s) = hostAnswer (exec (.render sl) s') := by
  have hh16 : s.sprH16 = s'.sprH16 := (congrArg State.sprH16 hview :)
  have hleft : s.showLeft = s'.showLeft := (congrArg State.showLeft hview :)
  have hbgt : s.bgt = s'.bgt := (congrArg State.bgt hview :)
  have hrom : s.rom = s'.rom := (congrArg State.rom hview :)
  have hcanvas : SameCanvas s s' :=
    ⟨hbgt, (congrArg State.palEpoch hview :), (congrArg State.fb hview :), (congrArg State.zeroHit hview :)⟩
  have hheights : heightAgrees s = heightAgrees s' := by rw [heightAgrees, heightAgrees, hrb, hrbH16, hh16]
  have hready : backgroundReady s sl.toNat = backgroundReady s' sl.toNat := by
    rw [backgroundReady, backgroundReady, hrb, hbgt]
  have hdrawn : (renderBank sl.toNat s.showLeft (spriteHeight s.sprH16) s).hostView =
      (renderBank sl.toNat s.showLeft (spriteHeight s.sprH16) s').hostView := by
    have hsame := renderBank_sameCanvas hcanvas hrb sl.toNat s.showLeft (spriteHeight s.sprH16)
    rw [(renderBank_frame ..).hostView, (renderBank_frame sl.toNat s.showLeft (spriteHeight s.sprH16) s').hostView, hview,
      hsame.fb, hsame.zeroHit]
  rw [exec_render_eq, exec_render_eq, execRender, execRender, withImage, withImage, hrom]
  cases s'.rom with
  | none => rfl
  | some img =>
    simp only [← hheights, ← hready, ← hleft, ← hh16]
    split_ifs
    · exact congrArg Host.Outcome.next hview
    · rfl
    · rfl
    · exact congrArg Host.Outcome.next hdrawn

/-! ### Steps -/

/-- No request's word is that of an internal operation (R12, 41_sprite_decode.md); and if it is a RENDER's it is a
command with the phase bit set. -/
theorem requested_cases {h16 : Bool} {r : Request} {i : Instr} (hdecode : decode h16 (requestWord r) = .ok i) :
    readsNoBank i = true ∨ ∃ sl, i = .render sl ∧ r = .command (cmdWord true sl) := by
  have hword : encode i = requestWord r := encodeOfDecodeIsTheWord h16 _ i hdecode
  cases i with
  | decode8 | decode16 | flip => cases r <;> cases hword
  | render sl =>
    cases r with
    | command w => exact .inr ⟨sl, rfl, congrArg Request.command (OpWord.cmd.inj hword).symm⟩
    | transaction | capability => cases hword
  | eval | readPrg | writePrg | readChr | writeChr | mReset | mTick | mIrq | mMirror | mSave | mLoad => exact .inl rfl

/-- A requested word, for two states that look alike and, if it is a RENDER's, hold one RB or are asked for a scanline
below the display. -/
theorem runWord_hostView {s s' : State} (hview : s.hostView = s'.hostView) (r : Request)
    (hrender : ∀ sl : Scanline, r = .command (cmdWord true sl) → 240 ≤ sl.toNat ∨ (s.rb = s'.rb ∧ s.rbH16 = s'.rbH16)) :
    hostAnswer (runWord (requestWord r) s) = hostAnswer (runWord (requestWord r) s') := by
  have hh16 : s.sprH16 = s'.sprH16 := (congrArg State.sprH16 hview :)
  have hrom : s.rom = s'.rom := (congrArg State.rom hview :)
  cases hdecode : decode s.sprH16 (requestWord r) with
  | error e => rw [runWord, runWord, ← hh16, hdecode]
  | ok i =>
    rw [runWord_of_decode hdecode, runWord_of_decode (hh16 ▸ hdecode)]
    rcases requested_cases hdecode with hblind | ⟨sl, rfl, hr⟩
    · rw [← exec_hostView hblind s, ← exec_hostView hblind s', hview]
    · rcases hrender sl hr with hbelow | ⟨hrb, hrbH16⟩
      · cases hrom' : s'.rom with
        | none =>
          rw [nothingButLoadRunsWithoutAnImage s _ (hrom.trans hrom') (by simp),
            nothingButLoadRunsWithoutAnImage s' _ hrom' (by simp)]
        | some img =>
          rw [renderBelowTheDisplayIsANoOp s img sl (hrom.trans hrom') hbelow,
            renderBelowTheDisplayIsANoOp s' img sl hrom' hbelow]
          exact congrArg Host.Outcome.next hview
      · exact exec_render_hostView hview hrb hrbH16 sl

theorem setPending_hostView (s : State) (p : List Event) : (s.setPending p).hostView = s.hostView.setPending p := rfl

theorem act_internal {a : HostAction} {s t : State} (h : act a s = .next t) : t.internal = s.internal := by
  cases a with
  | construct img =>
    rw [act] at h
    split at h
    · exact next_inj.1 h ▸ rfl
    · cases h
  | clearFlag f => exact next_inj.1 h ▸ State.clearFlag_internal s f
  | writeOam | setSprTable | setSprH16 | setShowLeft | setBypass | writeBgt | writeBgtRow | writeFb | changePalette
  | giveStream | setStreamFails | resetBlock => exact next_inj.1 h ▸ rfl

theorem exec_internal {i : Instr} {s t : State} (h : exec i s = .next t) : t.internal = s.internal := by
  obtain ⟨-, -, -, -, -, -, -, -, hint, -⟩ := noOperationWritesItsInputs i s t h
  exact hint

/-- Settles O59: the answers of two like states are alike, thing by thing that a step can find first; a RENDER changes
the view at FB and ZEROHIT only; and neither actions nor operations start an internal operation (R40). -/
theorem banksAreHiddenFromTheHost : Obligations.BanksAreHiddenFromTheHost := by
  refine ⟨fun s s' hview hint hint' hrender => alike_of_hostAnswer_eq ?_, fun s s' t t' sl hview h h' => ?_,
    fun s t hint h => ?_⟩
  · have hpending : s'.pending = s.pending := (congrArg State.pending hview.symm :)
    have hrest (rest : List Event) : (s.setPending rest).hostView = (s'.setPending rest).hostView := by
      rw [setPending_hostView, setPending_hostView, hview]
    cases hpend : s.pending with
    | nil =>
      rw [step_of_nothing hint hpend, step_of_nothing hint' (hpending.trans hpend)]
      exact congrArg Host.Outcome.next hview
    | cons e rest =>
      cases e with
      | act a =>
        rw [step_of_action hint hpend, step_of_action hint' (hpending.trans hpend), ← act_hostView,
          ← act_hostView a (s'.setPending rest), hrest]
      | op r =>
        rw [step_of_request hint hpend, step_of_request hint' (hpending.trans hpend)]
        refine runWord_hostView (hrest rest) r fun sl hr => ?_
        subst hr
        rw [← cmdWord_scanline true sl]
        exact hrender _ rest hpend (cmdWord_phase true sl)
  · rw [(exec_render_frame h).hostView, (exec_render_frame h').hostView, hview]
  · rcases step_next h with rfl | ⟨a, rest, hact⟩ | ⟨i, rest, hexec⟩ | ⟨i, hexec⟩
    · exact hint
    · exact (act_internal hact).trans hint
    · exact (exec_internal hexec).trans hint
    · exact exec_internal hexec

end Sys2Proof.Machine
end

