-- ==== Sys2Proof/Proofs/PipelineDelay.lean ====
section
/-! The one-scanline delay between EVAL and RENDER (10_state.md R40; 70_reset_and_hazards.md R221). -/

namespace Sys2Proof.Machine

open Sys2Proof

/-- What RENDER reads of the state that an EVAL leaves: the bank that was handed over, and the rest as it was (R144,
R146). -/
theorem exec_eval_handoff {t : State} {img : RomImage} (h : t.rom = some img) {sl : Scanline} (hs : sl.toNat < 240) :
    ∃ u, exec (.eval sl) t = .next u ∧ u.rom = some img ∧ u.rb = t.eb ∧ u.rbH16 = t.ebH16 ∧ u.sprH16 = t.sprH16 ∧
      u.showLeft = t.showLeft ∧ u.bgt = t.bgt ∧ SameCanvas u t :=
  ⟨_, exec_eval_of_visible h hs, h, rfl, rfl, rfl, rfl, rfl, rfl, rfl, rfl, rfl⟩

/-- What the next scanline's EVAL and RENDER need of the state that an EVAL leaves: its new bank is of the sampled
height. -/
theorem exec_eval_filled {s : State} {img : RomImage} (h : s.rom = some img) {sl : Scanline} (hs : sl.toNat < 240) :
    ∃ t, exec (.eval sl) s = .next t ∧ t.rom = some img ∧ t.ebH16 = some t.sprH16 ∧ bankWf t.ebH16 t.eb ∧ t.bgt = s.bgt :=
  ⟨_, exec_eval_of_visible h hs, h, rfl, bankWf_evaluated .., rfl⟩

/-- Settles O60: the EVAL of the next scanline hands the bank over as it is, whatever it reads itself, and RENDER sees
none of the changed inputs (R144, R172, R221). -/
theorem changesAfterEvalMissTheNextRender : Obligations.ChangesAfterEvalMissTheNextRender := by
  intro s img img' sl m tbl byp hrom hs hbg
  have hnext : (sl + 1).toNat = sl.toNat + 1 := by
    rw [BitVec.toNat_add]
    exact Nat.mod_eq_of_lt (by simp; omega)
  have hvisible : (sl + 1).toNat < 240 := by omega
  obtain ⟨t, ht, htrom, htebH16, ⟨-, -, hgrids⟩, htbgt⟩ := exec_eval_filled hrom (sl := sl) (by omega)
  obtain ⟨u, hu, hurom, hurb, hurbH16, huh16, huleft, hubgt, hucanvas⟩ := exec_eval_handoff htrom hvisible
  obtain ⟨u', hu', hurom', hurb', hurbH16', huh16', huleft', hubgt', hucanvas'⟩ :=
    exec_eval_handoff (t := { t with oam := m, rom := some img', sprTable := tbl, bypass := byp }) rfl hvisible
  have hheights : heightsAgree u := by
    rw [heightsAgree, hurb, hurbH16, huh16, htebH16]
    refine ⟨fun _ hmem => (Option.mem_some.1 hmem).symm, fun sp hsp => ?_⟩
    obtain ⟨-, hrows, -⟩ := hgrids sp hsp
    rwa [htebH16] at hrows
  have hdone : backgroundDone u (sl + 1).toNat := by
    rw [hnext]
    exact .inr (by rwa [hubgt, htbgt])
  obtain ⟨v, v', hv, hv', hfb, hzero⟩ := renderDoesNotSeeWhatEvalReads u u' img img' (sl + 1) hurom hurom'
    (hurb.trans hurb'.symm) (hurbH16.trans hurbH16'.symm) (huh16.trans huh16'.symm) (huleft.trans huleft'.symm)
    (hubgt.trans hubgt'.symm) (hucanvas.palEpoch.trans hucanvas'.palEpoch.symm) (hucanvas.fb.trans hucanvas'.fb.symm)
    (hucanvas.zeroHit.trans hucanvas'.zeroHit.symm) (.inr ⟨hheights, hdone⟩)
  exact ⟨t, u, u', v, v', ht, hu, hu', hv, hv', hfb, hzero⟩

end Sys2Proof.Machine
end
